-- ==== Sys2Proof/Word.lean ====
section
/-! DEFINITION. The word types of PNGCORE (00_scope R9): a byte and a u32. -/

namespace Sys2Proof

/-- A byte: 8 bits, unsigned (R9). -/
abbrev Byte := BitVec 8

/-- A u32: 32 bits, unsigned (R9). -/
abbrev U32 := BitVec 32

end Sys2Proof
end

