-- ==== Sys2Proof/Config.lean ====
section
/-! DEFINITION. The parameters of 00_scope R6 and the reset contents of a byte memory.
`ADDR_W` and the capacities `MAX_*` are taken unbounded, as R6 and D22, D32 suggest for a model (log entry 2):
offsets and lengths are naturals. `UNKNOWN_CHUNK_POLICY` is `ignore` (D13, log entry 18). -/

namespace Sys2Proof.Config

/-- `TYPE_IHDR` (R6, R90): ASCII "IHDR". PRESUMED by the spec itself (G1), log entry 17. -/
def typeIhdr : U32 := 0x49484452#32

/-- `TYPE_IDAT` (R6, R90): ASCII "IDAT". PRESUMED by the spec itself (G1), log entry 17. -/
def typeIdat : U32 := 0x49444154#32

/-- `TYPE_IEND` (R6, R90): ASCII "IEND". PRESUMED by the spec itself (G1), log entry 17. -/
def typeIend : U32 := 0x49454E44#32

/-- `COLOR_TRUECOLOR` (R6, R144). PRESUMED by the spec itself (G2), log entry 17. -/
def colorTruecolor : Byte := 2#8

/-- `CHANNELS` (R6): sample bytes per pixel, and so `BPP`, the distance in bytes to the pixel at the left. -/
def channels : Nat := 3

/-- `FRAME_OVERHEAD` (R6): the bytes of a chunk record that are not payload. -/
def frameOverhead : Nat := 12

/-- `IHDR_LEN` (R6): the exact length of the header payload. -/
def ihdrLen : Nat := 13

/-- The free values: the `k`-th value a host read is given where the spec gives it none ("any value", U26, U27). It has no body,
so nothing can be proved of it. Log entry 28. -/
opaque freeValue : Nat → Nat

/-- What a byte of memory that nothing has written since reset reads as. The spec gives it no value (R39, U25).
DESIGN CHOICE, unsafe, log entry 1. -/
def unwrittenByte : Byte := 0#8

end Sys2Proof.Config
end

