-- ==== Sys2Proof/Syntax.lean ====
section
/-! DEFINITION. The instructions of PNGCORE: one constructor per row of spec/opcode_table.json (30_encoding R90, R91, R93, R94
and the two Byte Cursor primitives of 40_byte_cursor R110, R111). -/

namespace Sys2Proof

/-- The six byte memories (R32, R34 to R37): the `M` of a cursor operation. -/
inductive ByteMem where
  | body | comp | infl | prevRow | curRow | grid
  deriving DecidableEq, Repr

/-- Where the caller of `READ_U32` keeps the value it returns: the left side of the assignments of R121 (`L`, `TYPE`, with the
position in `POS`) and of R140 (`HDR_WIDTH`, `HDR_HEIGHT`, with the position in `p`). DESIGN CHOICE, log entry 6. -/
inductive U32Dst where
  | frameLength | frameType | hdrWidth | hdrHeight
  deriving DecidableEq, Repr

/-- Where the caller of `READ_U8` keeps the byte it returns: the left side of the assignments of R140.
DESIGN CHOICE, log entry 6. -/
inductive U8Dst where
  | hdrBitDepth | hdrColorType | hdrCompression | hdrFilter | hdrInterlace
  deriving DecidableEq, Repr

/-- One constructor per row of the opcode table, in the table's order. -/
inductive Instr where
  /-- `CHUNK.IHDR` (R127); `len` is the record's `LENGTH` field (R82). -/
  | chunkIhdr (len : U32)
  /-- `CHUNK.IDAT` (R129). -/
  | chunkIdat (len : U32)
  /-- `CHUNK.IEND` (R130). -/
  | chunkIend (len : U32)
  /-- `CHUNK.OTHER` (R128); `typ` is the record's `TYPE` field (R83). -/
  | chunkOther (len typ : U32)
  /-- `ROW.NONE` (R165). -/
  | rowNone
  /-- `ROW.SUB` (R166). -/
  | rowSub
  /-- `ROW.UP` (R167). -/
  | rowUp
  /-- `ROW.AVG` (R168). -/
  | rowAvg
  /-- `ROW.PAETH` (R169). -/
  | rowPaeth
  /-- `ROW.ILLEGAL` (R170); `ft` is the filter byte found, 5 to 255. -/
  | rowIllegal (ft : Byte)
  /-- `SEQ.IDLE` (R201). -/
  | seqIdle
  /-- `SEQ.FRAME` (R121). -/
  | seqFrame
  /-- `SEQ.HEADER` (R140). -/
  | seqHeader
  /-- `SEQ.VALIDATE` (R144). -/
  | seqValidate
  /-- `SEQ.CONCAT` (R205). -/
  | seqConcat
  /-- `SEQ.INFLATE` (R208). -/
  | seqInflate
  /-- `SEQ.LENCHECK` (R160). -/
  | seqLencheck
  /-- `SEQ.ROWS` (R161). -/
  | seqRows
  /-- `SEQ.ENDCHECK` (R210). -/
  | seqEndcheck
  /-- `SEQ.DONE` (R211). -/
  | seqDone
  /-- `SEQ.ERROR` (R240). -/
  | seqError
  /-- `CMD.NOP` (R203). -/
  | cmdNop
  /-- `CMD.START` (R201). -/
  | cmdStart
  /-- `CMD.CLEAR` (R202). -/
  | cmdClear
  /-- `CMD.RESERVED` (R203): acts as `CMD.NOP`. -/
  | cmdReserved
  /-- `READ_U32` (R110): memory `m`, its number of valid bytes `n`, offset `pos`. -/
  | readU32 (dst : U32Dst) (m : ByteMem) (n pos : Nat)
  /-- `READ_U8` (R111). -/
  | readU8 (dst : U8Dst) (m : ByteMem) (n pos : Nat)
  deriving DecidableEq, Repr

end Sys2Proof
end

