-- ==== Sys2Proof/WellFormed.lean ====
section
/-! DEFINITION. Which terms of `Instr` stand for an instruction of the spec: the catch-all rows hold only what no earlier row
of their format matches (30_encoding R90, R91), and a cursor operation has `0 <= pos <= n` (40_byte_cursor R110). -/

namespace Sys2Proof

/-- The type codes of `CHUNK.OTHER`: every value but the three named ones (R90). -/
def Instr.isOtherType (t : U32) : Bool :=
  t != Config.typeIhdr && t != Config.typeIdat && t != Config.typeIend

/-- The filter bytes of `ROW.ILLEGAL`: 5 to 255 (R91). -/
def Instr.isIllegalFilter (ft : Byte) : Bool := decide (4 < ft.toNat)

/-- The well-formedness check, one arm per constructor. -/
def Instr.wellFormed : Instr → Bool
  | .chunkIhdr _ => true
  | .chunkIdat _ => true
  | .chunkIend _ => true
  | .chunkOther _ typ => Instr.isOtherType typ
  | .rowNone => true
  | .rowSub => true
  | .rowUp => true
  | .rowAvg => true
  | .rowPaeth => true
  | .rowIllegal ft => Instr.isIllegalFilter ft
  | .seqIdle => true
  | .seqFrame => true
  | .seqHeader => true
  | .seqValidate => true
  | .seqConcat => true
  | .seqInflate => true
  | .seqLencheck => true
  | .seqRows => true
  | .seqEndcheck => true
  | .seqDone => true
  | .seqError => true
  | .cmdNop => true
  | .cmdStart => true
  | .cmdClear => true
  | .cmdReserved => true
  | .readU32 _ _ n pos => decide (pos ≤ n)
  | .readU8 _ _ n pos => decide (pos ≤ n)

end Sys2Proof
end

