-- ==== Sys2Proof/Decode.lean ====
section
/-! DEFINITION. The decoder of the four formats of 30_encoding R80 (`CHUNK`, `ROW`, `PHASE`, `CMD`), total on any bytes and
rejecting by name, and the encoder beside it. The two Byte Cursor primitives have no encoding (R93, R110). -/

namespace Sys2Proof

/-- The four formats of R80: which stream or register the bits were fetched from. -/
inductive Format where
  | chunk | row | phase | cmd
  deriving DecidableEq, Repr

/-- Why bytes are no instruction. -/
inductive DecodeReject where
  /-- fewer bytes than the format's selector and operand fields take: 8 for `CHUNK` (R81), 1 for the others -/
  | tooShort
  /-- `PHASE` codes 11 to 15 (R22, R92): reserved, never entered -/
  | reservedPhase (code : BitVec 4)
  deriving DecidableEq, Repr

/-- Four bytes in stream order as a big-endian u32 (R50): the first byte is the most significant. -/
def be32 (b0 b1 b2 b3 : Byte) : U32 := b0 ++ b1 ++ b2 ++ b3

/-- A u32 as its four bytes, most significant first (R50, R112 (3)). -/
def beBytes (v : U32) : List Byte :=
  [v.extractLsb' 24 8, v.extractLsb' 16 8, v.extractLsb' 8 8, v.extractLsb' 0 8]

/-- `CHUNK` (R81, R90): the two header fields of a record; the rows are tried in the table's order and `CHUNK.OTHER` takes
what no earlier row matched. Types are compared as whole 32-bit numbers (R83). -/
def decodeChunk (len typ : U32) : Instr :=
  if typ = Config.typeIhdr then .chunkIhdr len
  else if typ = Config.typeIdat then .chunkIdat len
  else if typ = Config.typeIend then .chunkIend len
  else .chunkOther len typ

/-- `ROW` (R87, R91): the filter byte of a scanline record. -/
def decodeRow (ft : Byte) : Instr :=
  match ft.toNat with
  | 0 => .rowNone
  | 1 => .rowSub
  | 2 => .rowUp
  | 3 => .rowAvg
  | 4 => .rowPaeth
  | _ => .rowIllegal ft

/-- `PHASE` (R22, R93): the 4-bit code. -/
def decodePhase (code : BitVec 4) : Except DecodeReject Instr :=
  match code.toNat with
  | 0 => .ok .seqIdle
  | 1 => .ok .seqFrame
  | 2 => .ok .seqHeader
  | 3 => .ok .seqValidate
  | 4 => .ok .seqConcat
  | 5 => .ok .seqInflate
  | 6 => .ok .seqLencheck
  | 7 => .ok .seqRows
  | 8 => .ok .seqEndcheck
  | 9 => .ok .seqDone
  | 10 => .ok .seqError
  | _ => .error (.reservedPhase code)

/-- `CMD` (R94): the 2-bit code. -/
def decodeCmd (code : BitVec 2) : Instr :=
  match code.toNat with
  | 0 => .cmdNop
  | 1 => .cmdStart
  | 2 => .cmdClear
  | _ => .cmdReserved

/-- The decoder: the format, the bytes from where the record stands, the instruction and the bytes after its fields. The 4-bit
and 2-bit selectors are the low bits of their byte (the table: "bits 3:0 of STATUS", "bits 1:0 of the value written"). -/
def decode : Format → List Byte → Except DecodeReject (Instr × List Byte)
  | .chunk, l0 :: l1 :: l2 :: l3 :: t0 :: t1 :: t2 :: t3 :: rest =>
      .ok (decodeChunk (be32 l0 l1 l2 l3) (be32 t0 t1 t2 t3), rest)
  | .chunk, _ => .error .tooShort
  | .row, ft :: rest => .ok (decodeRow ft, rest)
  | .row, [] => .error .tooShort
  | .phase, b :: rest => (decodePhase (b.extractLsb' 0 4)).map fun i => (i, rest)
  | .phase, [] => .error .tooShort
  | .cmd, b :: rest => .ok (decodeCmd (b.extractLsb' 0 2), rest)
  | .cmd, [] => .error .tooShort

/-- The format and bytes of a well-formed instruction, from the tables of R81, R90, R91, R93, R94; the cursor primitives
have no encoding. -/
def encode : Instr → Option (Format × List Byte)
  | .chunkIhdr len => some (.chunk, beBytes len ++ beBytes Config.typeIhdr)
  | .chunkIdat len => some (.chunk, beBytes len ++ beBytes Config.typeIdat)
  | .chunkIend len => some (.chunk, beBytes len ++ beBytes Config.typeIend)
  | .chunkOther len typ => some (.chunk, beBytes len ++ beBytes typ)
  | .rowNone => some (.row, [0#8])
  | .rowSub => some (.row, [1#8])
  | .rowUp => some (.row, [2#8])
  | .rowAvg => some (.row, [3#8])
  | .rowPaeth => some (.row, [4#8])
  | .rowIllegal ft => some (.row, [ft])
  | .seqIdle => some (.phase, [0#8])
  | .seqFrame => some (.phase, [1#8])
  | .seqHeader => some (.phase, [2#8])
  | .seqValidate => some (.phase, [3#8])
  | .seqConcat => some (.phase, [4#8])
  | .seqInflate => some (.phase, [5#8])
  | .seqLencheck => some (.phase, [6#8])
  | .seqRows => some (.phase, [7#8])
  | .seqEndcheck => some (.phase, [8#8])
  | .seqDone => some (.phase, [9#8])
  | .seqError => some (.phase, [10#8])
  | .cmdNop => some (.cmd, [0#8])
  | .cmdStart => some (.cmd, [1#8])
  | .cmdClear => some (.cmd, [2#8])
  | .cmdReserved => some (.cmd, [3#8])
  | .readU32 _ _ _ _ => none
  | .readU8 _ _ _ _ => none

/-- Which format a word of `nbits` bits is looked up in. 32, 4 and 2 bits are the selector widths of `CHUNK`, `PHASE` and
`CMD`. A whole byte does not say which of the three one-byte formats is meant, and their codes overlap: the answer is the
format of what `step` itself fetches, `PHASE`, and `ROW` for the values that are no `PHASE` code. DESIGN CHOICE, log entry 15. -/
def tableFormat (nbits w : Nat) : Option Format :=
  if nbits = 32 then some .chunk
  else if nbits = 4 then some .phase
  else if nbits = 2 then some .cmd
  else if nbits = 8 then (if w ≤ 10 then some .phase else some .row)
  else none

/-- The bytes of a row's word as the hardware stores them: a `CHUNK` word is the `TYPE` field, big-endian, after a `LENGTH`
field of zero (R81); the others are one byte. -/
def tableBytes (f : Format) (w : Nat) : List Byte :=
  match f with
  | .chunk => beBytes 0#32 ++ beBytes (BitVec.ofNat 32 w)
  | .row => [BitVec.ofNat 8 w]
  | .phase => [BitVec.ofNat 8 w]
  | .cmd => [BitVec.ofNat 8 w]

/-- What the decoder reads from a word numbered as spec/opcode_table.json numbers it. -/
def decodeTableWord (nbits w : Nat) : Option Instr :=
  match tableFormat nbits w with
  | none => none
  | some f =>
    match decode f (tableBytes f w) with
    | .ok (i, _) => some i
    | .error _ => none

end Sys2Proof
end

