-- ==== Sys2Proof/Machine/State.lean ====
section
/-! DEFINITION. The state of one PNGCORE instance (10_state R20 to R39) and of the agents around it (00_scope R7), as plain
data; the reasons a step can stop; the state after reset (R39). -/

namespace Sys2Proof.Machine

/-- A byte memory: (offset, byte) pairs in one canonical form (`Memory.wf` in Ops.lean). -/
abbrev Memory := List Host.Cell

/-- The values of `PHASE` (R22): eleven, and no more (93_implementation_defined U21). -/
inductive Phase where
  | idle | frame | header | validate | concat | inflate | lencheck | rows | endcheck | done | error
  deriving DecidableEq, Repr

/-- An entry of `CHUNK_TABLE` (R33): a descriptor of a chunk, not a copy of its payload. -/
structure ChunkEntry where
  typeCode : U32
  payOff : Nat
  payLen : U32
  deriving DecidableEq, Repr

/-- The answer of the inflate collaborator (R207). -/
inductive InflateAnswer where
  | ok (bytes : List Byte)
  | fail
  deriving DecidableEq, Repr

/-- The answer as the port delivers it (R207): the bytes of `ok` stand in `INFL` by then (R60, R284). -/
inductive InflateVerdict where
  | ok
  | fail
  deriving DecidableEq, Repr

/-- One step of one agent (R7): which one moves, and what it does. Log entry 4. -/
inductive Turn where
  /-- the sequencer takes the step of its phase -/
  | sequencer
  /-- the inflate collaborator answers, if it has an answer to give (R208) -/
  | collaborator
  /-- the reset input (R270) -/
  | reset
  /-- the host writes a register (R21); a write of index 0 is a command (R30) -/
  | writeReg (index : BitVec 5) (value : Nat)
  /-- the host writes a byte of `BODY` (R32) -/
  | writeBody (offset : Nat) (value : Byte)
  /-- the host reads a register (R21) -/
  | readReg (index : BitVec 5)
  /-- the host reads a byte of `BODY` (R40) -/
  | readBody (offset : Nat)
  /-- the host reads a byte of `GRID` (R37) -/
  | readGrid (offset : Nat)
  deriving DecidableEq, Repr

/-- The eight errors (60_exceptions R231). They are not faults of the model: an error is a next state in phase `ERROR`. -/
inductive PngError where
  | outOfBounds | truncatedChunk | invalidHeader | unsupportedImageFormat
  | truncatedImageData | invalidFilterType | decompressionError | malformedStream
  deriving DecidableEq, Repr

/-- An error with the two information values it records (R29, R231). -/
structure Failure where
  err : PngError
  info0 : Nat
  info1 : Nat
  deriving DecidableEq, Repr

/-- The state. Registers of `ADDR_W` bits are naturals (R6, log entry 2); the others have the width of R21, R25, R26, R28.
`CMD`, `STATUS`, `N_CHUNKS` and `GRID_ROWS` are views (Flags.lean, log entry 8). -/
structure State where
  /-- `PHASE` (R22) -/
  phase : Phase
  /-- `ERR_CODE` (R29) -/
  errCode : BitVec 4
  /-- `ERR_INFO0` (R29) -/
  errInfo0 : Nat
  /-- `ERR_INFO1` (R29) -/
  errInfo1 : Nat
  /-- `BODY_LEN` (R31) -/
  bodyLen : Nat
  /-- `POS` (R24) -/
  pos : Nat
  /-- `CH_START` (R25), scratch -/
  chStart : Nat
  /-- `L` (R25), scratch -/
  len : U32
  /-- `TYPE` (R25), scratch -/
  typ : U32
  /-- `HDR_VALID` (R26) -/
  hdrValid : Bool
  /-- `HDR_WIDTH` (R26) -/
  hdrWidth : U32
  /-- `HDR_HEIGHT` (R26) -/
  hdrHeight : U32
  /-- `HDR_BIT_DEPTH` (R26) -/
  hdrBitDepth : Byte
  /-- `HDR_COLOR_TYPE` (R26) -/
  hdrColorType : Byte
  /-- `HDR_COMPRESSION` (R26) -/
  hdrCompression : Byte
  /-- `HDR_FILTER` (R26) -/
  hdrFilter : Byte
  /-- `HDR_INTERLACE` (R26) -/
  hdrInterlace : Byte
  /-- the model's own: the local position `p` of R140, log entry 6 -/
  hdrPos : Nat
  /-- `CI` (R27) -/
  ci : Nat
  /-- `COMP_LEN` (R27) -/
  compLen : Nat
  /-- `INFL_REQ` (R27) -/
  inflReq : Bool
  /-- `INFL_LEN` (R27) -/
  inflLen : Nat
  /-- `NEED` (R28) -/
  need : BitVec 66
  /-- `ROW_BYTES` (R28) -/
  rowBytes : BitVec 34
  /-- `ROW` (R28) -/
  row : BitVec 33
  /-- `FT` (R28), scratch -/
  ft : Byte
  /-- `BODY` (R32) -/
  body : Memory
  /-- `CHUNK_TABLE` (R33) -/
  chunkTable : List ChunkEntry
  /-- `COMP` (R34) -/
  comp : Memory
  /-- `INFL` (R35) -/
  infl : Memory
  /-- `PREV_ROW` (R36) -/
  prevRow : Memory
  /-- `CUR_ROW` (R36) -/
  curRow : Memory
  /-- `GRID` (R37) -/
  grid : Memory
  /-- the model's own: the inward side of the inflate port (R207), an answer delivered and not yet taken, log entry 5 -/
  inflAnswer : Option InflateVerdict
  /-- the model's own: the value the host's last read returned, log entry 19 -/
  hostRead : Nat
  /-- the model's own: how many host reads have been answered, so that each free value is a fresh one, log entry 28 -/
  freeCount : Nat
  /-- the collaborator (R207): its function as a finite table; an input it does not list is never answered, log entry 3 -/
  collab : List (List Byte × InflateAnswer)
  /-- which agent moves at each coming step; when it is empty the sequencer does, log entry 4 -/
  agenda : List Turn
  deriving DecidableEq, Repr

/-- Why the machine stops. No error of the stream is here: those are next states (R240). -/
inductive Fault where
  /-- Raised by `SEQ.CONCAT`, `SEQ.ENDCHECK` and the `CHUNK` meanings where their rule reads an entry of `CHUNK_TABLE` that is
  not there. No run reaches such a state (R205, R210: "N_CHUNKS >= 1 here"). Safe, log entry 11. -/
  | noChunkEntry
  /-- Raised by the fetch of a `PHASE` code 11 to 15, which no rule ever writes (R22, U21). Unreachable, safe, log entry 11. -/
  | reservedPhase
  deriving DecidableEq, Repr

/-- What the model gives no meaning. -/
inductive Refusal where
  /-- An instruction with no meaning yet, by its mnemonic: no arm answers it now. Safe. -/
  | notModelled (mnemonic : String)
  /-- Raised by the host's turn that writes a byte of `BODY` while `BUSY = 1`: the spec gives such a decode no meaning (R281,
  U28: refuse). Safe, log entry 12. -/
  | bodyWrittenWhileBusy
  deriving DecidableEq, Repr

/-- What a turn asks of the machine: to run an instruction at a state, or an effect that is no instruction. -/
inductive Action where
  | run (i : Instr) (s : State)
  | effect (o : Host.Outcome State Fault Refusal)

/-- The machine right after reset (R39): every register 0, `CHUNK_TABLE` empty, memories with nothing listed. -/
def State.reset : State where
  phase := .idle
  errCode := 0#4
  errInfo0 := 0
  errInfo1 := 0
  bodyLen := 0
  pos := 0
  chStart := 0
  len := 0#32
  typ := 0#32
  hdrValid := false
  hdrWidth := 0#32
  hdrHeight := 0#32
  hdrBitDepth := 0#8
  hdrColorType := 0#8
  hdrCompression := 0#8
  hdrFilter := 0#8
  hdrInterlace := 0#8
  hdrPos := 0
  ci := 0
  compLen := 0
  inflReq := false
  inflLen := 0
  need := 0#66
  rowBytes := 0#34
  row := 0#33
  ft := 0#8
  body := []
  chunkTable := []
  comp := []
  infl := []
  prevRow := []
  curRow := []
  grid := []
  inflAnswer := none
  hostRead := 0
  freeCount := 0
  collab := []
  agenda := []

end Sys2Proof.Machine
end

