-- ==== Sys2Proof/Machine/Ops.lean ====
section
/-! DEFINITION. The named operations over memories and registers: byte memories (00_scope R10, R11), big-endian reads
(20_memory R50), phase codes (10_state R22), error entry (60_exceptions R240), the register writes of `START` and `CLEAR`
(44_pipeline_driver R201), the reset event (70 R270). -/

namespace Sys2Proof.Machine

/-! ### Byte memories -/

/-- `M[a]`: the byte listed at offset `a`, or what an unlisted byte reads as (log entry 1). -/
def Memory.read : Memory → Nat → Byte
  | [], _ => Config.unwrittenByte
  | (k, v) :: rest, a => if k = a then v else Memory.read rest a

/-- `MemWrite(M, a, 1, v)` (R11), keeping the canonical form. -/
def Memory.write : Memory → Nat → Byte → Memory
  | [], a, v => if v = Config.unwrittenByte then [] else [(a, v)]
  | (k, w) :: rest, a, v =>
    if a < k then
      if v = Config.unwrittenByte then (k, w) :: rest else (a, v) :: (k, w) :: rest
    else if a = k then
      if v = Config.unwrittenByte then rest else (a, v) :: rest
    else (k, w) :: Memory.write rest a v

/-- Offsets strictly rising from `lo` on, and no entry equal to what an unlisted byte reads as. -/
def Memory.wfFrom (lo : Nat) : Memory → Bool
  | [] => true
  | (k, v) :: rest => decide (lo ≤ k) && v != Config.unwrittenByte && Memory.wfFrom (k + 1) rest

/-- The canonical form: equal memories are equal lists. -/
def Memory.wf (m : Memory) : Bool := Memory.wfFrom 0 m

/-- `M[a..a+n)` (R10). -/
def Memory.readBytes (m : Memory) (a : Nat) : Nat → List Byte
  | 0 => []
  | n + 1 => Memory.read m a :: Memory.readBytes m (a + 1) n

/-- `M[a + j] <- bytes[j]` for every `j`, in increasing order. -/
def Memory.writeBytes (m : Memory) (a : Nat) : List Byte → Memory
  | [] => m
  | b :: rest => Memory.writeBytes (Memory.write m a b) (a + 1) rest

/-- `M[i] <- 0` for `0 <= i < n` (R160). An unlisted byte reads 0 (log entry 1), so the entries below `n` go. -/
def Memory.zeroBelow (n : Nat) : Memory → Memory
  | [] => []
  | (k, v) :: rest => if k < n then Memory.zeroBelow n rest else (k, v) :: Memory.zeroBelow n rest

/-- `MemRead(M, off, 4)` (R50): big-endian. -/
def Memory.read4 (m : Memory) (off : Nat) : U32 :=
  be32 (Memory.read m off) (Memory.read m (off + 1)) (Memory.read m (off + 2)) (Memory.read m (off + 3))

/-- The memory a cursor operation names. -/
def State.mem (s : State) : ByteMem → Memory
  | .body => s.body
  | .comp => s.comp
  | .infl => s.infl
  | .prevRow => s.prevRow
  | .curRow => s.curRow
  | .grid => s.grid

/-! ### Phases and errors -/

/-- The 4-bit code of a phase (R22). -/
def Phase.code : Phase → BitVec 4
  | .idle => 0#4
  | .frame => 1#4
  | .header => 2#4
  | .validate => 3#4
  | .concat => 4#4
  | .inflate => 5#4
  | .lencheck => 6#4
  | .rows => 7#4
  | .endcheck => 8#4
  | .done => 9#4
  | .error => 10#4

/-- The phase of a code; 11 to 15 are reserved (R22). -/
def Phase.ofCode (n : Nat) : Option Phase :=
  match n with
  | 0 => some .idle
  | 1 => some .frame
  | 2 => some .header
  | 3 => some .validate
  | 4 => some .concat
  | 5 => some .inflate
  | 6 => some .lencheck
  | 7 => some .rows
  | 8 => some .endcheck
  | 9 => some .done
  | 10 => some .error
  | _ => none

/-- The codes of the eight errors (R231). -/
def PngError.code : PngError → BitVec 4
  | .outOfBounds => 1#4
  | .truncatedChunk => 2#4
  | .invalidHeader => 3#4
  | .unsupportedImageFormat => 4#4
  | .truncatedImageData => 5#4
  | .invalidFilterType => 6#4
  | .decompressionError => 7#4
  | .malformedStream => 8#4

/-- Error entry (R240): `raise E(i0, i1)` does this and nothing else. It is the machine's one exception entry; the state it is
given is the one at the start of the step, so every other write of the raising step is abandoned. -/
def State.raise (e : PngError) (i0 i1 : Nat) (s : State) : State :=
  { s with
    errCode := e.code
    errInfo0 := i0
    errInfo1 := i1
    hdrValid := false
    inflReq := false
    phase := .error }

/-- The end of a step that may fail: its next state, or error entry from the state `s` at the start of the step (R240). -/
def State.settle (s : State) : Except Failure State → Host.Outcome State Fault Refusal
  | .ok t => .next t
  | .error f => .next (s.raise f.err f.info0 f.info1)

/-- The register writes of `CMD.START` and `CMD.CLEAR` but for `PHASE` (R201, R202): the way out of `DONE` and `ERROR`, which is
the block's return from an error (R244). The scratch registers are not among them (log entry 9). -/
def State.clearDecode (s : State) : State :=
  { s with
    errCode := 0#4
    errInfo0 := 0
    errInfo1 := 0
    hdrValid := false
    hdrWidth := 0#32
    hdrHeight := 0#32
    hdrBitDepth := 0#8
    hdrColorType := 0#8
    hdrCompression := 0#8
    hdrFilter := 0#8
    hdrInterlace := 0#8
    pos := 0
    chunkTable := []
    ci := 0
    compLen := 0
    inflReq := false
    inflLen := 0
    need := 0#66
    rowBytes := 0#34
    row := 0#33 }

/-- The reset event (R270): the block as after reset (R39), an outstanding request and answer dropped; the host, the
collaborator and the coming turns are outside the block and stay. Log entry 10. -/
def State.resetEvent (s : State) : State :=
  { State.reset with hostRead := s.hostRead, freeCount := s.freeCount, collab := s.collab, agenda := s.agenda }

end Sys2Proof.Machine
end

