-- ==== Sys2Proof/Machine/Operands.lean ====
section
/-! DEFINITION. The operand forms: the Byte Cursor's reads and where their caller keeps the result (40_byte_cursor R110, R111),
entries of `CHUNK_TABLE` (10_state R33), the record and the neighbours of a sample (30_encoding R87, 43 R163), the five
predictors (43 R165 to R169, R176). -/

namespace Sys2Proof.Machine

/-! ### The Byte Cursor -/

/-- The `OutOfBounds` failure of a cursor read (R110, R232). -/
def outOfBoundsAt (pos remaining : Nat) : Failure := ⟨.outOfBounds, pos, remaining⟩

/-- `READ_U32(M, n, pos) -> (value, new_pos)` (R110): a function of its operands alone (R112). -/
def cursorU32 (m : Memory) (n pos : Nat) : Except Failure (U32 × Nat) :=
  if n - pos < 4 then .error (outOfBoundsAt pos (n - pos))
  else .ok (Memory.read4 m pos, pos + 4)

/-- `READ_U8(M, n, pos) -> (value, new_pos)` (R111). -/
def cursorU8 (m : Memory) (n pos : Nat) : Except Failure (Byte × Nat) :=
  if n - pos < 1 then .error (outOfBoundsAt pos 0)
  else .ok (Memory.read m pos, pos + 1)

/-- Where the caller of `READ_U32` keeps the value and the new position: the left sides of R121 and R140 (log entry 6). -/
def State.keepU32 (s : State) (dst : U32Dst) (v : U32) (p : Nat) : State :=
  match dst with
  | .frameLength => { s with len := v, pos := p }
  | .frameType => { s with typ := v, pos := p }
  | .hdrWidth => { s with hdrWidth := v, hdrPos := p }
  | .hdrHeight => { s with hdrHeight := v, hdrPos := p }

/-- Where the caller of `READ_U8` keeps the byte and the new position: the left sides of R140 (log entry 6). -/
def State.keepU8 (s : State) (dst : U8Dst) (v : Byte) (p : Nat) : State :=
  match dst with
  | .hdrBitDepth => { s with hdrBitDepth := v, hdrPos := p }
  | .hdrColorType => { s with hdrColorType := v, hdrPos := p }
  | .hdrCompression => { s with hdrCompression := v, hdrPos := p }
  | .hdrFilter => { s with hdrFilter := v, hdrPos := p }
  | .hdrInterlace => { s with hdrInterlace := v, hdrPos := p }

/-- `(dst, p) <- READ_U32(m, n, pos)`. -/
def State.loadU32 (s : State) (dst : U32Dst) (m : ByteMem) (n pos : Nat) : Except Failure State :=
  (cursorU32 (s.mem m) n pos).map fun r => s.keepU32 dst r.1 r.2

/-- `(dst, p) <- READ_U8(m, n, pos)`. -/
def State.loadU8 (s : State) (dst : U8Dst) (m : ByteMem) (n pos : Nat) : Except Failure State :=
  (cursorU8 (s.mem m) n pos).map fun r => s.keepU8 dst r.1 r.2

/-! ### Entries of CHUNK_TABLE -/

/-- `N_CHUNKS` (R25): the number of entries of `CHUNK_TABLE` (log entry 8). -/
def State.nChunks (s : State) : Nat := s.chunkTable.length

/-- The entry the phase examines: chunk 0 in `HEADER` (R140), `CHUNK_TABLE[CI]` in `CONCAT` (R205), the last one in `ENDCHECK`
(R210). -/
def State.firstEntry (s : State) : Option ChunkEntry := s.chunkTable.head?
def State.ciEntry (s : State) : Option ChunkEntry := s.chunkTable[s.ci]?
def State.lastEntry (s : State) : Option ChunkEntry := s.chunkTable.getLast?

/-! ### Scanline records -/

/-- The offset in `INFL` of the record of row `ROW` (R88, R161): `ROW * (1 + RB)`. -/
def State.rowOffset (s : State) : Nat := s.row.toNat * (1 + s.rowBytes.toNat)

/-- The filter byte of row `ROW` (R162). -/
def State.filterByte (s : State) : Byte := Memory.read s.infl s.rowOffset

/-- `left` (R163): the reconstructed sample three bytes back in the row, 0 in column 0. -/
def leftOf (cur : Memory) (i : Nat) : Byte :=
  if Config.channels ≤ i then Memory.read cur (i - Config.channels) else 0#8

/-- `up` (R163): the reconstructed sample of the previous row. -/
def upOf (prev : Memory) (i : Nat) : Byte := Memory.read prev i

/-- `upleft` (R163): the reconstructed sample three bytes back in the previous row, 0 in column 0. -/
def upLeftOf (prev : Memory) (i : Nat) : Byte :=
  if Config.channels ≤ i then Memory.read prev (i - Config.channels) else 0#8

/-! ### Predictors -/

/-- `ROW.NONE` (R165): 0. -/
def predNone (_left _up _upLeft : Byte) : Byte := 0#8

/-- `ROW.SUB` (R166): `left`. -/
def predSub (left _up _upLeft : Byte) : Byte := left

/-- `ROW.UP` (R167): `up`. -/
def predUp (_left up _upLeft : Byte) : Byte := up

/-- `ROW.AVG` (R168): `floor((left + up) / 2)`, the sum not reduced before the halving. -/
def predAvg (left up _upLeft : Byte) : Byte := BitVec.ofNat 8 ((left.toNat + up.toNat) / 2)

/-- The Paeth predictor (R176), in exact signed arithmetic, with the fixed tie-break of R177. -/
def paeth (a b c : Byte) : Byte :=
  let p : Int := (a.toNat : Int) + (b.toNat : Int) - (c.toNat : Int)
  let pa := (p - (a.toNat : Int)).natAbs
  let pb := (p - (b.toNat : Int)).natAbs
  let pc := (p - (c.toNat : Int)).natAbs
  if pa ≤ pb ∧ pa ≤ pc then a else if pb ≤ pc then b else c

/-- `ROW.PAETH` (R169). -/
def predPaeth (left up upLeft : Byte) : Byte := paeth left up upLeft

/-- The predictor of a filter byte 0 to 4 (R91, R161); no rule uses it for another byte. -/
def predictorOf (ft : Byte) : Byte → Byte → Byte → Byte :=
  match ft.toNat with
  | 0 => predNone
  | 1 => predSub
  | 2 => predUp
  | 3 => predAvg
  | _ => predPaeth

/-- Reconstruction (R164): `(filt + pred) mod 256`. -/
def reconstruct (filt pred : Byte) : Byte := filt + pred

end Sys2Proof.Machine
end

