-- ==== Sys2Proof/Machine/Flags.lean ====
section
/-! DEFINITION. The block's only flags, pure functions of `PHASE` and `HDR_VALID` (10_state R23); the gated count `GRID_ROWS`
(R28); the output `done_irq` (60_exceptions R245); the register map the host reads (R21), and the values its reads are given
(93_implementation_defined U26, U27). -/

namespace Sys2Proof.Machine

/-- `BUSY` (R23): `1 <= PHASE <= 8`. -/
def State.busy (s : State) : Bool := decide (1 ≤ s.phase.code.toNat) && decide (s.phase.code.toNat ≤ 8)

/-- `DONE` (R23). -/
def State.isDone (s : State) : Bool := decide (s.phase = .done)

/-- `ERR` (R23). -/
def State.isErr (s : State) : Bool := decide (s.phase = .error)

/-- `STATUS` (R23): bits 3:0 `PHASE`, 4 `BUSY`, 5 `DONE`, 6 `ERR`, 7 `HDR_VALID`. -/
def State.status (s : State) : BitVec 8 :=
  BitVec.ofBool s.hdrValid ++ BitVec.ofBool s.isErr ++ BitVec.ofBool s.isDone ++ BitVec.ofBool s.busy ++ s.phase.code

/-- `GRID_ROWS` (R28): `HDR_HEIGHT` in phase `DONE`, 0 in every other phase. -/
def State.gridRows (s : State) : U32 := if s.isDone then s.hdrHeight else 0#32

/-- `done_irq` (R245): `DONE or ERR`. -/
def State.doneIrq (s : State) : Bool := s.isDone || s.isErr

/-- The register map (R21): what each index holds; `CMD` reads 0 (R30), the reserved indices 17 to 31 read 0. -/
def State.readReg (s : State) (index : BitVec 5) : Nat :=
  match index.toNat with
  | 1 => s.status.toNat
  | 2 => s.errCode.toNat
  | 3 => s.errInfo0
  | 4 => s.errInfo1
  | 5 => s.bodyLen
  | 6 => s.hdrWidth.toNat
  | 7 => s.hdrHeight.toNat
  | 8 => s.hdrBitDepth.toNat
  | 9 => s.hdrColorType.toNat
  | 10 => s.hdrCompression.toNat
  | 11 => s.hdrFilter.toNat
  | 12 => s.hdrInterlace.toNat
  | 13 => s.nChunks
  | 14 => s.compLen
  | 15 => s.inflLen
  | 16 => s.gridRows.toNat
  | _ => 0

/-! ### What a host read is given -/

/-- The header registers, the diagnostics and `GRID` hold no result: while busy, or after an error (R213, R283, U26). -/
def State.inFlux (s : State) : Bool := s.busy || s.isErr

/-- A fresh free value of `bits` bits (log entry 28). -/
def State.free (s : State) (bits : Nat) : Nat := Config.freeValue s.freeCount % 2 ^ bits

/-- The host reads a register (R21). `HDR_*`, `N_CHUNKS`, `COMP_LEN`, `INFL_LEN` read while busy or after an error are any value
of their width (U26). -/
def State.hostReadReg (s : State) (index : BitVec 5) : Nat :=
  if s.inFlux && decide (6 ≤ index.toNat) && decide (index.toNat ≤ 7) then s.free 32
  else if s.inFlux && decide (8 ≤ index.toNat) && decide (index.toNat ≤ 12) then s.free 8
  else if s.inFlux && decide (13 ≤ index.toNat) && decide (index.toNat ≤ 15) then Config.freeValue s.freeCount
  else s.readReg index

/-- The host reads a byte of `BODY` (R40); a byte at `BODY_LEN` or above is any value (U27). -/
def State.hostReadBody (s : State) (offset : Nat) : Nat :=
  if offset < s.bodyLen then (Memory.read s.body offset).toNat else s.free 8

/-- The host reads a byte of `GRID` (R37): a result only in `DONE` and below `3 * HDR_WIDTH * HDR_HEIGHT`; elsewhere any value
(U26, U27). -/
def State.hostReadGrid (s : State) (offset : Nat) : Nat :=
  if s.isDone && decide (offset < Config.channels * s.hdrWidth.toNat * s.hdrHeight.toNat) then (Memory.read s.grid offset).toNat
  else s.free 8

/-- The answer `v` to a host read: no side effect on the block (R54). -/
def State.answerHost (s : State) (v : Nat) : State := { s with hostRead := v, freeCount := s.freeCount + 1 }

end Sys2Proof.Machine
end

