-- ==== Sys2Proof/Machine/Cursor.lean ====
section
/-! DEFINITION. The Byte Cursor primitives as instructions (40_byte_cursor R110, R111): on success the value and the new position
stand where the caller keeps them, on failure `OutOfBounds` is raised and nothing else is written. -/

namespace Sys2Proof.Machine

/-- `READ_U32` (R110). -/
def execReadU32 (dst : U32Dst) (m : ByteMem) (n pos : Nat) (s : State) : Host.Outcome State Fault Refusal :=
  s.settle (s.loadU32 dst m n pos)

/-- `READ_U8` (R111). -/
def execReadU8 (dst : U8Dst) (m : ByteMem) (n pos : Nat) (s : State) : Host.Outcome State Fault Refusal :=
  s.settle (s.loadU8 dst m n pos)

end Sys2Proof.Machine
end

