-- ==== Sys2Proof/Machine/Chunk.lean ====
section
/-! DEFINITION. What the block does with a chunk of each type (41_chunk_reader R127 to R130), in each phase that examines a
chunk: framed in `FRAME` (R121 to R124), judged and parsed as chunk 0 in `HEADER` (R140 to R143), copied or passed over in
`CONCAT` (R205), judged as the last chunk in `ENDCHECK` (R210). In every other phase a chunk has no effect (log entry 7). -/

namespace Sys2Proof.Machine

/-! ### The shared operations of the four phases -/

/-- Actions 3 and 4 of R121: the entry is appended, `POS` steps over payload and checksum. `POS` stands at the payload. -/
def State.appendChunk (s : State) : State :=
  { s with
    chunkTable := s.chunkTable ++ [⟨s.typ, s.pos, s.len⟩]
    pos := s.pos + s.len.toNat + 4 }

/-- R123: `L + 12` exceeds what is left of `BODY` from the record's first byte; the sum is exact. -/
def State.recordExceeds (s : State) (start : Nat) (len : U32) : Bool :=
  decide (len.toNat + Config.frameOverhead > s.bodyLen - start)

/-- The record of a chunk at `POS`, framed: every type alike (R121, R123, R124). -/
def frameChunk (typ len : U32) (s : State) : Host.Outcome State Fault Refusal :=
  if s.recordExceeds s.pos len then .next (s.raise .truncatedChunk s.pos len.toNat)
  else .next { s with chStart := s.pos, len := len, typ := typ, pos := s.pos + 8 }.appendChunk

/-- R143: the seven header fields, by the cursor over `BODY[off .. off + 13)`. -/
def State.loadHeader (s : State) (off : Nat) : Except Failure State := do
  let s ← s.loadU32 .hdrWidth .body (off + Config.ihdrLen) off
  let s ← s.loadU32 .hdrHeight .body (off + Config.ihdrLen) s.hdrPos
  let s ← s.loadU8 .hdrBitDepth .body (off + Config.ihdrLen) s.hdrPos
  let s ← s.loadU8 .hdrColorType .body (off + Config.ihdrLen) s.hdrPos
  let s ← s.loadU8 .hdrCompression .body (off + Config.ihdrLen) s.hdrPos
  let s ← s.loadU8 .hdrFilter .body (off + Config.ihdrLen) s.hdrPos
  s.loadU8 .hdrInterlace .body (off + Config.ihdrLen) s.hdrPos

/-- The rest of R140 once chunk 0 is known to be IHDR: the length test (R142), then the extraction (R143). -/
def parseHeader (len : U32) (off : Nat) (s : State) : Host.Outcome State Fault Refusal :=
  if len.toNat ≠ Config.ihdrLen then .next (s.raise .invalidHeader len.toNat 0)
  else s.settle ((s.loadHeader off).map fun t => { t with hdrValid := true, phase := .validate })

/-- R141: chunk 0 is no IHDR. -/
def firstNotIhdr (typ : U32) (s : State) : Host.Outcome State Fault Refusal :=
  .next (s.raise .malformedStream 2 typ.toNat)

/-- R205 for a chunk that is not IDAT: passed over. -/
def passChunk (s : State) : Host.Outcome State Fault Refusal :=
  .next { s with ci := s.ci + 1 }

/-- R205 for an IDAT: its payload is appended to `COMP`. -/
def copyChunk (len : U32) (off : Nat) (s : State) : Host.Outcome State Fault Refusal :=
  .next { s with
    comp := Memory.writeBytes s.comp s.compLen (Memory.readBytes s.body off len.toNat)
    compLen := s.compLen + len.toNat
    ci := s.ci + 1 }

/-- R210: the last chunk is no IEND. -/
def lastNotIend (typ : U32) (s : State) : Host.Outcome State Fault Refusal :=
  .next (s.raise .malformedStream 3 typ.toNat)

/-- R210 for an IEND as the last chunk: its payload must be empty. -/
def endMarker (len : U32) (s : State) : Host.Outcome State Fault Refusal :=
  if len ≠ 0#32 then .next (s.raise .malformedStream 4 len.toNat)
  else .next { s with phase := .done }

/-- Which of the four operations the phase calls for, with the chunk's payload offset from `CHUNK_TABLE` where it is needed. An
empty table in `HEADER` is `MalformedStream(1, 0)` (R140); an entry missing elsewhere is unreachable (log entry 11). -/
def chunkInPhase (typ len : U32) (inHeader inConcat : Nat → State → Host.Outcome State Fault Refusal)
    (inEndcheck : State → Host.Outcome State Fault Refusal) (s : State) : Host.Outcome State Fault Refusal :=
  match s.phase with
  | .frame => frameChunk typ len s
  | .header =>
    match s.firstEntry with
    | none => .next (s.raise .malformedStream 1 0)
    | some e => inHeader e.payOff s
  | .concat =>
    match s.ciEntry with
    | none => .fault .noChunkEntry
    | some e => inConcat e.payOff s
  | .endcheck =>
    match s.lastEntry with
    | none => .fault .noChunkEntry
    | some _ => inEndcheck s
  | .idle => .next s
  | .validate => .next s
  | .inflate => .next s
  | .lencheck => .next s
  | .rows => .next s
  | .done => .next s
  | .error => .next s

/-! ### The four chunk types -/

/-- `CHUNK.IHDR` (R127): the header as chunk 0, passed over elsewhere, no end marker. -/
def execChunkIhdr (len : U32) (s : State) : Host.Outcome State Fault Refusal :=
  chunkInPhase Config.typeIhdr len (parseHeader len) (fun _ => passChunk) (lastNotIend Config.typeIhdr) s

/-- `CHUNK.IDAT` (R129): its payload is appended to `COMP`, at whatever index it stands. -/
def execChunkIdat (len : U32) (s : State) : Host.Outcome State Fault Refusal :=
  chunkInPhase Config.typeIdat len (fun _ => firstNotIhdr Config.typeIdat) (copyChunk len)
    (lastNotIend Config.typeIdat) s

/-- `CHUNK.IEND` (R130): the end marker as the last chunk, no effect elsewhere. -/
def execChunkIend (len : U32) (s : State) : Host.Outcome State Fault Refusal :=
  chunkInPhase Config.typeIend len (fun _ => firstNotIhdr Config.typeIend) (fun _ => passChunk) (endMarker len) s

/-- `CHUNK.OTHER` (R128): framed, then ignored; it matters by position only. -/
def execChunkOther (len typ : U32) (s : State) : Host.Outcome State Fault Refusal :=
  chunkInPhase typ len (fun _ => firstNotIhdr typ) (fun _ => passChunk) (lastNotIend typ) s

end Sys2Proof.Machine
end

