-- ==== Sys2Proof/Machine/Row.lean ====
section
/-! DEFINITION. The row operations (43_scanline_reconstructor R161 to R171): one row of `INFL`, selected by its filter byte,
reconstructed into `CUR_ROW` and committed to `GRID` and `PREV_ROW`. -/

namespace Sys2Proof.Machine

/-- The loop of R161 over the samples `0 .. n - 1` of the record at offset `o` of `infl`, in increasing order: sample `i` is
`filt + pred(left, up, upleft)` (R164), `left` read from the row in progress. -/
def rowLoop (pred : Byte → Byte → Byte → Byte) (infl prev : Memory) (o : Nat) : Nat → Memory → Memory
  | 0, cur => cur
  | i + 1, cur =>
    let done := rowLoop pred infl prev o i cur
    Memory.write done i
      (reconstruct (Memory.read infl (o + 1 + i)) (pred (leftOf done i) (upOf prev i) (upLeftOf prev i)))

/-- Row commit (R171): `GRID[r * RB + i] <- CUR_ROW[i]`, `PREV_ROW[i] <- CUR_ROW[i]`, then `ROW <- ROW + 1`. -/
def State.commitRow (s : State) : State :=
  let finished := Memory.readBytes s.curRow 0 s.rowBytes.toNat
  { s with
    grid := Memory.writeBytes s.grid (s.row.toNat * s.rowBytes.toNat) finished
    prevRow := Memory.writeBytes s.prevRow 0 finished
    row := s.row + 1#33 }

/-- One whole row with the predictor `pred` (R161, steps 2 and 3). -/
def reconstructRow (ft : Byte) (pred : Byte → Byte → Byte → Byte) (s : State) : State :=
  { s with
    ft := ft
    curRow := rowLoop pred s.infl s.prevRow s.rowOffset s.rowBytes.toNat s.curRow }.commitRow

/-- `ROW.NONE` (R165). -/
def execRowNone (s : State) : Host.Outcome State Fault Refusal :=
  .next (reconstructRow 0#8 predNone s)

/-- `ROW.SUB` (R166). -/
def execRowSub (s : State) : Host.Outcome State Fault Refusal :=
  .next (reconstructRow 1#8 predSub s)

/-- `ROW.UP` (R167). -/
def execRowUp (s : State) : Host.Outcome State Fault Refusal :=
  .next (reconstructRow 2#8 predUp s)

/-- `ROW.AVG` (R168). -/
def execRowAvg (s : State) : Host.Outcome State Fault Refusal :=
  .next (reconstructRow 3#8 predAvg s)

/-- `ROW.PAETH` (R169). -/
def execRowPaeth (s : State) : Host.Outcome State Fault Refusal :=
  .next (reconstructRow 4#8 predPaeth s)

/-- `ROW.ILLEGAL` (R170): `InvalidFilterType(ROW, FT)`, before any sample of the row. -/
def execRowIllegal (ft : Byte) (s : State) : Host.Outcome State Fault Refusal :=
  .next (s.raise .invalidFilterType s.row.toNat ft.toNat)

end Sys2Proof.Machine
end

