-- ==== Sys2Proof/Machine/Seq.lean ====
section
/-! DEFINITION. The sequencer's micro-operations (30_encoding R93), each the pseudocode of its rule. "No step" is a next state
in which nothing changes (00_scope R12, log entry 14). -/

namespace Sys2Proof.Machine

/-- `SEQ.IDLE` (R201): the sequencer takes no step of its own. -/
def execSeqIdle (s : State) : Host.Outcome State Fault Refusal := .next s

/-- The framing of one record, actions 1 to 4 of R121, as a step that may fail. -/
def State.frameRecord (s : State) : Except Failure State := do
  let s1 ← { s with chStart := s.pos }.loadU32 .frameLength .body s.bodyLen s.pos
  if s1.recordExceeds s1.chStart s1.len then
    .error ⟨.truncatedChunk, s1.chStart, s1.len.toNat⟩
  else do
    let s2 ← s1.loadU32 .frameType .body s1.bodyLen s1.pos
    .ok s2.appendChunk

/-- `SEQ.FRAME` (R121 to R125). -/
def execSeqFrame (s : State) : Host.Outcome State Fault Refusal :=
  if s.pos = s.bodyLen then .next { s with phase := .header }
  else s.settle s.frameRecord

/-- `SEQ.HEADER` (R140 to R143). -/
def execSeqHeader (s : State) : Host.Outcome State Fault Refusal :=
  match s.firstEntry with
  | none => .next (s.raise .malformedStream 1 0)
  | some e =>
    if e.typeCode ≠ Config.typeIhdr then firstNotIhdr e.typeCode s
    else parseHeader e.payLen e.payOff s

/-- `SEQ.VALIDATE` (R144): the five format fields, in the order of the document's list. -/
def execSeqValidate (s : State) : Host.Outcome State Fault Refusal :=
  if s.hdrBitDepth ≠ 8#8 then .next (s.raise .unsupportedImageFormat 1 s.hdrBitDepth.toNat)
  else if s.hdrColorType ≠ Config.colorTruecolor then .next (s.raise .unsupportedImageFormat 2 s.hdrColorType.toNat)
  else if s.hdrCompression ≠ 0#8 then .next (s.raise .unsupportedImageFormat 3 s.hdrCompression.toNat)
  else if s.hdrFilter ≠ 0#8 then .next (s.raise .unsupportedImageFormat 4 s.hdrFilter.toNat)
  else if s.hdrInterlace ≠ 0#8 then .next (s.raise .unsupportedImageFormat 5 s.hdrInterlace.toNat)
  else .next { s with ci := 0, compLen := 0, phase := .concat }

/-- `SEQ.CONCAT` (R205), and the request at its end (R206). -/
def execSeqConcat (s : State) : Host.Outcome State Fault Refusal :=
  if s.ci = s.nChunks then .next { s with inflReq := true, phase := .inflate }
  else
    match s.ciEntry with
    | none => .fault .noChunkEntry
    | some e => if e.typeCode = Config.typeIdat then copyChunk e.payLen e.payOff s else passChunk s

/-- `SEQ.INFLATE` (R208): wait for the answer, then take it; `fail` is `DecompressionError` (R209). `INFL` and `INFL_LEN` are the
collaborator's writes, made before it delivered the answer (R60, R284; `collaboratorTurn`). -/
def execSeqInflate (s : State) : Host.Outcome State Fault Refusal :=
  match s.inflAnswer with
  | none => .next s
  | some .ok => .next { s with inflReq := false, inflAnswer := none, phase := .lencheck }
  | some .fail => .next (State.raise .decompressionError s.compLen 0 { s with inflAnswer := none })

/-- `ROW_BYTES` of R160: `3 * HDR_WIDTH`, exact. -/
def rowBytesOf (width : U32) : Nat := Config.channels * width.toNat

/-- `NEED` of R160: `HDR_HEIGHT * (1 + ROW_BYTES)`, exact. -/
def needOf (width height : U32) : Nat := height.toNat * (1 + rowBytesOf width)

/-- `SEQ.LENCHECK` (R160). -/
def execSeqLencheck (s : State) : Host.Outcome State Fault Refusal :=
  if s.inflLen < needOf s.hdrWidth s.hdrHeight then .next (s.raise .truncatedImageData s.inflLen 0)
  else .next { s with
    rowBytes := BitVec.ofNat 34 (rowBytesOf s.hdrWidth)
    need := BitVec.ofNat 66 (needOf s.hdrWidth s.hdrHeight)
    row := 0#33
    prevRow := Memory.zeroBelow (rowBytesOf s.hdrWidth) s.prevRow
    phase := .rows }

/-- `SEQ.ROWS` (R161, R162, R170, R172): one whole row, or the end. -/
def execSeqRows (s : State) : Host.Outcome State Fault Refusal :=
  if s.row.toNat = s.hdrHeight.toNat then .next { s with phase := .endcheck }
  else if 4 < s.filterByte.toNat then
    .next (s.raise .invalidFilterType s.row.toNat s.filterByte.toNat)
  else .next (reconstructRow s.filterByte (predictorOf s.filterByte) s)

/-- `SEQ.ENDCHECK` (R210). -/
def execSeqEndcheck (s : State) : Host.Outcome State Fault Refusal :=
  match s.lastEntry with
  | none => .fault .noChunkEntry
  | some e =>
    if e.typeCode ≠ Config.typeIend then lastNotIend e.typeCode s
    else endMarker e.payLen s

/-- `SEQ.DONE` (R211): terminal, no step. -/
def execSeqDone (s : State) : Host.Outcome State Fault Refusal := .next s

/-- `SEQ.ERROR` (R240): terminal, no step. -/
def execSeqError (s : State) : Host.Outcome State Fault Refusal := .next s

end Sys2Proof.Machine
end

