-- ==== Sys2Proof/Machine/Cmd.lean ====
section
/-! DEFINITION. The host commands (30_encoding R94, 44_pipeline_driver R201 to R203). -/

namespace Sys2Proof.Machine

/-- `CMD.NOP` (R203): nothing, in any phase. -/
def execCmdNop (s : State) : Host.Outcome State Fault Refusal := .next s

/-- `CMD.START` (R201): a new decode from `IDLE`, `DONE` or `ERROR`; lost while busy (R203, R282). -/
def execCmdStart (s : State) : Host.Outcome State Fault Refusal :=
  if s.busy then .next s else .next { s.clearDecode with phase := .frame }

/-- `CMD.CLEAR` (R202): back to `IDLE`; lost while busy (R203). -/
def execCmdClear (s : State) : Host.Outcome State Fault Refusal :=
  if s.busy then .next s else .next { s.clearDecode with phase := .idle }

/-- `CMD.RESERVED` (R203): as `CMD.NOP`. -/
def execCmdReserved (s : State) : Host.Outcome State Fault Refusal := .next s

end Sys2Proof.Machine
end

