-- ==== Sys2Proof/Machine/Turn.lean ====
section
/-! DEFINITION. What each agent's turn asks of the machine (00_scope R7): the sequencer fetches its phase's micro-operation, a
host write of `CMD` fetches a command, the other turns are effects of their own. And the placing of a word where the next step
fetches it. -/

namespace Sys2Proof.Machine

/-- The sequencer's turn: `PHASE` selects the micro-operation (R22, R93). -/
def sequencerTurn (s : State) : Action :=
  match decodePhase s.phase.code with
  | .ok i => .run i s
  | .error _ => .effect (.fault .reservedPhase)

/-- The collaborator's function at an input (R207): the first row of its table that lists it. -/
def answerFor (table : List (List Byte × InflateAnswer)) (input : List Byte) : Option InflateAnswer :=
  match table with
  | [] => none
  | (x, a) :: rest => if x = input then some a else answerFor rest input

/-- The bytes submitted to the collaborator (R207): `COMP[0..COMP_LEN)`. -/
def State.submitted (s : State) : List Byte := Memory.readBytes s.comp 0 s.compLen

/-- The collaborator delivers an answer: with `ok` it has written `INFL` and `INFL_LEN`, completely, before (R60, R208, R284). -/
def State.deliver (s : State) : InflateAnswer → State
  | .ok bytes =>
    { s with infl := Memory.writeBytes s.infl 0 bytes, inflLen := bytes.length, inflAnswer := some .ok }
  | .fail => { s with inflAnswer := some .fail }

/-- The collaborator's turn (R208, R284): it answers an outstanding request once, if it has an answer; with no request outstanding
it writes nothing, and a late answer is ignored (R270). -/
def collaboratorTurn (s : State) : State :=
  if s.inflReq && decide (s.inflAnswer = none) then
    match answerFor s.collab s.submitted with
    | none => s
    | some a => s.deliver a
  else s

/-- The host's write of a register (R21): a command, `BODY_LEN` while not busy; any other write is ignored. -/
def writeRegTurn (index : BitVec 5) (value : Nat) (s : State) : Action :=
  match index.toNat with
  | 0 => .run (decodeCmd (BitVec.ofNat 2 value)) s
  | 5 => .effect (.next (if s.busy then s else { s with bodyLen := value }))
  | _ => .effect (.next s)

/-- The host's write of a byte of `BODY` (R32); while busy it is a breach to which the spec gives no meaning (R281, U28). -/
def writeBodyTurn (offset : Nat) (value : Byte) (s : State) : Host.Outcome State Fault Refusal :=
  if s.busy then .refused .bodyWrittenWhileBusy
  else .next { s with body := Memory.write s.body offset value }

/-- One agent's turn. -/
def turnAction (t : Turn) (s : State) : Action :=
  match t with
  | .sequencer => sequencerTurn s
  | .collaborator => .effect (.next (collaboratorTurn s))
  | .reset => .effect (.next s.resetEvent)
  | .writeReg index value => writeRegTurn index value s
  | .writeBody offset value => .effect (writeBodyTurn offset value s)
  | .readReg index => .effect (.next (s.answerHost (s.hostReadReg index)))
  | .readBody offset => .effect (.next (s.answerHost (s.hostReadBody offset)))
  | .readGrid offset => .effect (.next (s.answerHost (s.hostReadGrid offset)))

/-- The turn that comes next: the head of the agenda, taken off it; the sequencer where the agenda is empty (log entry 4). -/
def takeTurn (s : State) : Action :=
  match s.agenda with
  | [] => sequencerTurn s
  | t :: rest => turnAction t { s with agenda := rest }

/-! ### Placing a word (log entry 16) -/

/-- A whole chunk record at `POS`, with `LENGTH` and checksum zero, in phase `FRAME`. -/
def State.placeChunk (s : State) (w : Nat) : State :=
  { s with
    phase := .frame
    agenda := []
    body := Memory.writeBytes s.body s.pos (tableBytes .chunk w ++ beBytes 0#32)
    bodyLen := s.pos + Config.frameOverhead }

/-- A filter byte at the record of row `ROW`, in phase `ROWS` with that row still to do. -/
def State.placeRow (s : State) (w : Nat) : State :=
  { s with
    phase := .rows
    agenda := []
    hdrHeight := BitVec.ofNat 32 (s.row.toNat + 1)
    infl := Memory.writeBytes s.infl s.rowOffset (tableBytes .row w)
    inflLen := s.rowOffset + 1 + s.rowBytes.toNat }

/-- The phase itself. `ENDCHECK` examines the last entry of `CHUNK_TABLE`; where there is none, an empty end marker. -/
def State.placePhase (s : State) (w : Nat) : State :=
  match Phase.ofCode w with
  | none => s
  | some .endcheck =>
    { s with
      phase := .endcheck
      agenda := []
      chunkTable := if s.chunkTable = [] then [⟨Config.typeIend, 8, 0#32⟩] else s.chunkTable }
  | some p => { s with phase := p, agenda := [] }

/-- The host's write of the command. -/
def State.placeCmd (s : State) (w : Nat) : State := { s with agenda := [.writeReg 0#5 w] }

/-- The word of a row placed where the next step fetches it. -/
def State.placeTableWord (s : State) (nbits w : Nat) : State :=
  match tableFormat nbits w with
  | none => s
  | some .chunk => s.placeChunk w
  | some .row => s.placeRow w
  | some .phase => s.placePhase w
  | some .cmd => s.placeCmd w

end Sys2Proof.Machine
end

