-- ==== Sys2Proof/Machine/Dispatch.lean ====
section
/-! DEFINITION. One arm per constructor of `Instr`, each one direct call of its meaning. -/

namespace Sys2Proof.Machine

def exec (i : Instr) (s : State) : Host.Outcome State Fault Refusal :=
  match i with
  | .chunkIhdr len => Sys2Proof.Machine.execChunkIhdr len s
  | .chunkIdat len => Sys2Proof.Machine.execChunkIdat len s
  | .chunkIend len => Sys2Proof.Machine.execChunkIend len s
  | .chunkOther len typ => Sys2Proof.Machine.execChunkOther len typ s
  | .rowNone => Sys2Proof.Machine.execRowNone s
  | .rowSub => Sys2Proof.Machine.execRowSub s
  | .rowUp => Sys2Proof.Machine.execRowUp s
  | .rowAvg => Sys2Proof.Machine.execRowAvg s
  | .rowPaeth => Sys2Proof.Machine.execRowPaeth s
  | .rowIllegal ft => Sys2Proof.Machine.execRowIllegal ft s
  | .seqIdle => Sys2Proof.Machine.execSeqIdle s
  | .seqFrame => Sys2Proof.Machine.execSeqFrame s
  | .seqHeader => Sys2Proof.Machine.execSeqHeader s
  | .seqValidate => Sys2Proof.Machine.execSeqValidate s
  | .seqConcat => Sys2Proof.Machine.execSeqConcat s
  | .seqInflate => Sys2Proof.Machine.execSeqInflate s
  | .seqLencheck => Sys2Proof.Machine.execSeqLencheck s
  | .seqRows => Sys2Proof.Machine.execSeqRows s
  | .seqEndcheck => Sys2Proof.Machine.execSeqEndcheck s
  | .seqDone => Sys2Proof.Machine.execSeqDone s
  | .seqError => Sys2Proof.Machine.execSeqError s
  | .cmdNop => Sys2Proof.Machine.execCmdNop s
  | .cmdStart => Sys2Proof.Machine.execCmdStart s
  | .cmdClear => Sys2Proof.Machine.execCmdClear s
  | .cmdReserved => Sys2Proof.Machine.execCmdReserved s
  | .readU32 dst m n pos => Sys2Proof.Machine.execReadU32 dst m n pos s
  | .readU8 dst m n pos => Sys2Proof.Machine.execReadU8 dst m n pos s

end Sys2Proof.Machine
end

