-- ==== Sys2Proof/Machine/Step.lean ====
section
/-! DEFINITION. One step of the machine: the turn that comes next, and the instruction it fetches run by `exec`. -/

namespace Sys2Proof.Machine

/-- One step: next state, fault or refusal. -/
def step (s : State) : Host.Outcome State Fault Refusal :=
  match takeTurn s with
  | .run i t => exec i t
  | .effect o => o

/-- `s` with the word of a table row stored where `step` fetches its next instruction (log entry 16). -/
def State.withFetchWord (s : State) (nbits w : Nat) : State := s.placeTableWord nbits w

end Sys2Proof.Machine
end

