-- ==== Sys2Proof/Safety.lean ====
section
/-! DEFINITION. What claims about PNGCORE are stated in: the result of a run (44 R213), the invariants of every step, the measure
that falls (R212), and which parts of two states a decode can tell apart (R201, R214). -/

namespace Sys2Proof.Machine

/-! ### The result -/

/-- What the host may take from a finished run (R213), and nothing else. -/
inductive Result where
  | image (width height : U32) (bitDepth colorType compression filter interlace : Byte) (rows : U32) (grid : List Byte)
  | failed (code : BitVec 4) (info0 info1 : Nat)
  deriving DecidableEq, Repr

/-- The result of R213: there is one exactly in `DONE` and `ERROR`. -/
def State.result (s : State) : Option Result :=
  if s.isDone then
    some (.image s.hdrWidth s.hdrHeight s.hdrBitDepth s.hdrColorType s.hdrCompression s.hdrFilter s.hdrInterlace s.gridRows
      (Memory.readBytes s.grid 0 (Config.channels * s.hdrWidth.toNat * s.hdrHeight.toNat)))
  else if s.isErr then some (.failed s.errCode s.errInfo0 s.errInfo1)
  else none

/-! ### Memories -/

/-- Every byte memory is in its canonical form. -/
def State.memoriesCanonical (s : State) : Bool :=
  s.body.wf && s.comp.wf && s.infl.wf && s.prevRow.wf && s.curRow.wf && s.grid.wf

/-! ### Control -/

/-- The phase's code as a number (R22): the order of the phases of a decode (R200). -/
def State.phaseNo (s : State) : Nat := s.phase.code.toNat

/-- The records of `entries` tile the bytes `[start, stop)` (R126): each entry's payload stands 8 bytes after its record's first
byte, and the next record 12 bytes and the payload after it. -/
def Tiles : List ChunkEntry → Nat → Nat → Prop
  | [], start, stop => start = stop
  | e :: rest, start, stop => e.payOff = start + 8 ∧ Tiles rest (start + 12 + e.payLen.toNat) stop

/-- The sum of the payload lengths of the image-data chunks (R205). -/
def idatLength : List ChunkEntry → Nat
  | [] => 0
  | e :: rest => (if e.typeCode = Config.typeIdat then e.payLen.toNat else 0) + idatLength rest

/-- The concatenation of the payloads of the image-data chunks, in order (R129, R205). -/
def idatBytes (body : Memory) : List ChunkEntry → List Byte
  | [] => []
  | e :: rest =>
    (if e.typeCode = Config.typeIdat then Memory.readBytes body e.payOff e.payLen.toNat else []) ++ idatBytes body rest

/-- The control invariant: what the rules promise of the registers at each phase. -/
structure State.ControlInv (s : State) : Prop where
  /-- R29, R231: an error is recorded exactly in `ERROR`, with a code 1 to 8 -/
  errorPhase : s.phase = .error ↔ s.errCode ≠ 0#4
  errorCode : s.errCode.toNat ≤ 8
  errorInfo : s.errCode = 0#4 → s.errInfo0 = 0 ∧ s.errInfo1 = 0
  /-- R27, R206, R208: a request is outstanding exactly in `INFLATE`, and only then can an answer wait -/
  request : s.inflReq = true ↔ s.phase = .inflate
  answer : s.inflAnswer ≠ none → s.phase = .inflate
  /-- R26: `HDR_VALID` from the header's parse to the end of the decode -/
  header : s.hdrValid = true ↔ 3 ≤ s.phaseNo ∧ s.phaseNo ≤ 9
  /-- R24, R126: while busy the framed records tile `BODY[0..POS)`, and all of `BODY` once `FRAME` is left -/
  framed : s.busy = true → Tiles s.chunkTable 0 s.pos ∧ s.pos ≤ s.bodyLen
  framedAll : 2 ≤ s.phaseNo → s.phaseNo ≤ 8 → s.pos = s.bodyLen
  /-- R141, R142: past `HEADER`, chunk 0 is an IHDR of 13 bytes -/
  firstChunk : 3 ≤ s.phaseNo → s.phaseNo ≤ 9 →
    ∃ e, s.firstEntry = some e ∧ e.typeCode = Config.typeIhdr ∧ e.payLen.toNat = Config.ihdrLen
  /-- R2, R144: past `VALIDATE`, only the supported format -/
  format : 4 ≤ s.phaseNo → s.phaseNo ≤ 9 →
    s.hdrBitDepth = 8#8 ∧ s.hdrColorType = Config.colorTruecolor ∧ s.hdrCompression = 0#8 ∧ s.hdrFilter = 0#8 ∧
      s.hdrInterlace = 0#8
  /-- R205: `CI` chunks have been examined, `COMP_LEN` is the sum of their image data -/
  concat : s.phase = .concat → s.ci ≤ s.nChunks ∧ s.compLen = idatLength (s.chunkTable.take s.ci)
  concatAll : 5 ≤ s.phaseNo → s.phaseNo ≤ 8 → s.compLen = idatLength s.chunkTable
  /-- R160: past `LENCHECK` the exact products fit their registers and the inflated stream is long enough -/
  lengths : 7 ≤ s.phaseNo → s.phaseNo ≤ 9 →
    s.rowBytes.toNat = rowBytesOf s.hdrWidth ∧ s.need.toNat = needOf s.hdrWidth s.hdrHeight ∧ s.need.toNat ≤ s.inflLen
  /-- R28: `0 <= ROW <= HDR_HEIGHT`, and all rows once `ROWS` is left -/
  rows : s.phase = .rows → s.row.toNat ≤ s.hdrHeight.toNat
  rowsAll : 8 ≤ s.phaseNo → s.phaseNo ≤ 9 → s.row.toNat = s.hdrHeight.toNat
  /-- R210: in `DONE` the last chunk is an empty end marker -/
  lastChunk : s.phase = .done → ∃ e, s.lastEntry = some e ∧ e.typeCode = Config.typeIend ∧ e.payLen = 0#32

/-! ### Data -/

/-- R33, R126: while busy every entry of `CHUNK_TABLE` holds the `LENGTH` and `TYPE` fields that stand in `BODY` before its
payload. -/
def State.TableInv (s : State) : Prop :=
  s.busy = true → ∀ e ∈ s.chunkTable,
    8 ≤ e.payOff ∧ Memory.read4 s.body (e.payOff - 8) = e.payLen ∧ Memory.read4 s.body (e.payOff - 4) = e.typeCode

/-- R34: `COMP` holds the concatenation of the image data examined so far. -/
def State.CompInv (s : State) : Prop :=
  (s.phase = .concat →
    Memory.readBytes s.comp 0 s.compLen = idatBytes s.body (s.chunkTable.take s.ci)) ∧
  (5 ≤ s.phaseNo → s.phaseNo ≤ 8 → Memory.readBytes s.comp 0 s.compLen = idatBytes s.body s.chunkTable)

/-- `GRID[r * RB + i]` (R89): the reconstructed sample `i` of row `r`. -/
def State.sample (s : State) (r i : Nat) : Byte := Memory.read s.grid (r * s.rowBytes.toNat + i)

/-- The filter byte of row `r` (R88, R162). -/
def State.filterOf (s : State) (r : Nat) : Byte := Memory.read s.infl (r * (1 + s.rowBytes.toNat))

/-- The stored byte `filt` of sample `i` of row `r` (R87). -/
def State.stored (s : State) (r i : Nat) : Byte := Memory.read s.infl (r * (1 + s.rowBytes.toNat) + 1 + i)

/-- The document's neighbours (R163), as samples of the grid. -/
def State.sampleLeft (s : State) (r i : Nat) : Byte := if Config.channels ≤ i then s.sample r (i - Config.channels) else 0#8
def State.sampleUp (s : State) (r i : Nat) : Byte := if r = 0 then 0#8 else s.sample (r - 1) i
def State.sampleUpLeft (s : State) (r i : Nat) : Byte :=
  if r = 0 then 0#8 else if Config.channels ≤ i then s.sample (r - 1) (i - Config.channels) else 0#8

/-- Row `r` of `GRID` is the reconstruction of record `r` of `INFL` (R161 to R169): every sample is the stored byte plus the
prediction of its row's filter type from the reconstructed neighbours, modulo 256. -/
def State.RowReconstructed (s : State) (r : Nat) : Prop :=
  (s.filterOf r).toNat ≤ 4 ∧
  ∀ i, i < s.rowBytes.toNat →
    s.sample r i =
      reconstruct (s.stored r i)
        (predictorOf (s.filterOf r) (s.sampleLeft r i) (s.sampleUp r i) (s.sampleUpLeft r i))

/-- R36, R171: from `ROWS` to `DONE` the rows below `ROW` are reconstructed in `GRID`, and in `ROWS` `PREV_ROW` holds row
`ROW - 1`, or zeros for row 0. -/
def State.GridInv (s : State) : Prop :=
  7 ≤ s.phaseNo → s.phaseNo ≤ 9 →
    (∀ r, r < s.row.toNat → s.RowReconstructed r) ∧
    (s.phase = .rows → ∀ i, i < s.rowBytes.toNat →
      Memory.read s.prevRow i = if s.row.toNat = 0 then 0#8 else s.sample (s.row.toNat - 1) i)

/-! ### Progress -/

/-- How far the decode is from its end: the phases still to come, and the work left in this one (R200, R212). -/
def State.workLeft (s : State) : Nat × Nat :=
  match s.phase with
  | .idle => (0, 0)
  | .frame => (8, s.bodyLen - s.pos)
  | .header => (7, 0)
  | .validate => (6, 0)
  | .concat => (5, s.nChunks - s.ci)
  | .inflate => (4, 0)
  | .lencheck => (3, 0)
  | .rows => (2, s.hdrHeight.toNat - s.row.toNat)
  | .endcheck => (1, 0)
  | .done => (0, 0)
  | .error => (0, 0)

/-- The lexicographic order of `workLeft`. -/
def lessWork (a b : Nat × Nat) : Prop := a.1 < b.1 ∨ (a.1 = b.1 ∧ a.2 < b.2)

/-! ### What a decode can tell apart -/

/-- Two memories agree on the offsets below `hi`. -/
def AgreeOn (m m' : Memory) (hi : Nat) : Prop := ∀ i, i < hi → Memory.read m i = Memory.read m' i

/-- Two states that differ at most in what no rule of the current decode reads: scratch registers, bytes outside the valid
ranges, rows not yet written, the value of the host's last read (R38, R55, R201, R286). -/
structure State.SameDecode (s t : State) : Prop where
  agenda : s.agenda = t.agenda
  collab : s.collab = t.collab
  phase : s.phase = t.phase
  errCode : s.errCode = t.errCode
  errInfo0 : s.errInfo0 = t.errInfo0
  errInfo1 : s.errInfo1 = t.errInfo1
  bodyLen : s.bodyLen = t.bodyLen
  body : s.body = t.body
  pos : s.pos = t.pos
  chunkTable : s.chunkTable = t.chunkTable
  hdrValid : s.hdrValid = t.hdrValid
  hdrWidth : s.hdrWidth = t.hdrWidth
  hdrHeight : s.hdrHeight = t.hdrHeight
  hdrBitDepth : s.hdrBitDepth = t.hdrBitDepth
  hdrColorType : s.hdrColorType = t.hdrColorType
  hdrCompression : s.hdrCompression = t.hdrCompression
  hdrFilter : s.hdrFilter = t.hdrFilter
  hdrInterlace : s.hdrInterlace = t.hdrInterlace
  ci : s.ci = t.ci
  compLen : s.compLen = t.compLen
  inflReq : s.inflReq = t.inflReq
  inflAnswer : s.inflAnswer = t.inflAnswer
  inflLen : s.inflLen = t.inflLen
  need : s.need = t.need
  rowBytes : s.rowBytes = t.rowBytes
  row : s.row = t.row
  comp : AgreeOn s.comp t.comp s.compLen
  infl : AgreeOn s.infl t.infl s.inflLen
  prevRow : s.phase = .rows → AgreeOn s.prevRow t.prevRow s.rowBytes.toNat
  grid : 7 ≤ s.phaseNo → s.phaseNo ≤ 9 → AgreeOn s.grid t.grid (s.row.toNat * s.rowBytes.toNat)

end Sys2Proof.Machine
end

