-- ==== Sys2Proof/Certificates/Slice0/Obligations.lean ====
section
/-! DEFINITION. The statements about PNGCORE for the provers. "next" is the model's next state; an error of the stream is a next
state in phase `ERROR` (R240), not a fault. -/

open Sys2Proof Sys2Proof.Machine

/-! ### Reset, status, register map -/

/-- R39, R270: the reset event, in any phase, gives every register its reset value, empties `CHUNK_TABLE`, drops an outstanding
request, and a collaborator's answer after it is ignored. Of the byte memories nothing is said. -/
def Obligations.ResetEventRestoresEveryRegister : Prop :=
  ∀ (s : State) (rest : List Turn), s.agenda = .reset :: rest →
    ∃ t, step s = .next t ∧ t.agenda = rest ∧ t.phase = .idle ∧ t.status = 0#8 ∧ t.readReg 0#5 = 0 ∧
      t.errCode = 0#4 ∧ t.errInfo0 = 0 ∧ t.errInfo1 = 0 ∧ t.bodyLen = 0 ∧
      t.pos = 0 ∧ t.chStart = 0 ∧ t.len = 0#32 ∧ t.typ = 0#32 ∧ t.nChunks = 0 ∧
      t.hdrValid = false ∧ t.hdrWidth = 0#32 ∧ t.hdrHeight = 0#32 ∧ t.hdrBitDepth = 0#8 ∧ t.hdrColorType = 0#8 ∧
      t.hdrCompression = 0#8 ∧ t.hdrFilter = 0#8 ∧ t.hdrInterlace = 0#8 ∧
      t.ci = 0 ∧ t.compLen = 0 ∧ t.inflReq = false ∧ t.inflLen = 0 ∧
      t.need = 0#66 ∧ t.rowBytes = 0#34 ∧ t.row = 0#33 ∧ t.ft = 0#8 ∧ t.gridRows = 0#32 ∧ t.chunkTable = [] ∧
      ∀ rest', rest = .collaborator :: rest' → step t = .next { t with agenda := rest' }

/-- R271: after reset the block is in `IDLE` and does nothing until `CMD.START`; a decode begins at offset 0 of `BODY` in phase
`FRAME`. -/
def Obligations.AfterResetTheBlockWaitsForStart : Prop :=
  State.reset.phase = .idle ∧ step State.reset = .next State.reset ∧
  ∀ rest, ∃ t, step { State.reset with agenda := .writeReg 0#5 1 :: rest } = .next t ∧ t.phase = .frame ∧ t.pos = 0

/-- R23: `STATUS` is a function of `PHASE` and `HDR_VALID` alone, field by field, and 0 at reset; and the output `done_irq` (R245) is
its `DONE` or its `ERR` bit. -/
def Obligations.StatusIsAFunctionOfPhaseAndHdrValid : Prop :=
  State.reset.status = 0x00#8 ∧
  ∀ s : State,
    s.status.extractLsb' 0 4 = s.phase.code ∧
    (s.status.getLsbD 4 = true ↔ 1 ≤ s.phase.code.toNat ∧ s.phase.code.toNat ≤ 8) ∧
    (s.status.getLsbD 5 = true ↔ s.phase.code = 9#4) ∧
    (s.status.getLsbD 6 = true ↔ s.phase.code = 10#4) ∧
    s.status.getLsbD 7 = s.hdrValid ∧
    s.doneIrq = (s.status.getLsbD 5 || s.status.getLsbD 6) ∧
    ∀ t : State, t.phase = s.phase → t.hdrValid = s.hdrValid → t.status = s.status

/-- R21: the register map: what each index holds, the reserved indices hold 0, every index holds 0 after reset (what a host read is
given of it is the next statement); a write to a register
that is not writable changes nothing, and `BODY_LEN` is written only while `BUSY = 0`. (The writes of `CMD` are the commands' statements.)
That a write of `BODY_LEN` takes the whole value, a natural without bound, is log entries 13 (DEDUCED) and 2. -/
def Obligations.RegisterMapReadsAndIgnoredWrites : Prop :=
  (∀ i : BitVec 5, State.reset.readReg i = 0) ∧
  ∀ s : State,
    (s.readReg 0#5 = 0 ∧ s.readReg 1#5 = s.status.toNat ∧ s.readReg 2#5 = s.errCode.toNat ∧ s.readReg 3#5 = s.errInfo0 ∧
      s.readReg 4#5 = s.errInfo1 ∧ s.readReg 5#5 = s.bodyLen ∧ s.readReg 6#5 = s.hdrWidth.toNat ∧
      s.readReg 7#5 = s.hdrHeight.toNat ∧ s.readReg 8#5 = s.hdrBitDepth.toNat ∧ s.readReg 9#5 = s.hdrColorType.toNat ∧
      s.readReg 10#5 = s.hdrCompression.toNat ∧ s.readReg 11#5 = s.hdrFilter.toNat ∧
      s.readReg 12#5 = s.hdrInterlace.toNat ∧ s.readReg 13#5 = s.chunkTable.length ∧ s.readReg 14#5 = s.compLen ∧
      s.readReg 15#5 = s.inflLen ∧ s.readReg 16#5 = s.gridRows.toNat ∧
      ∀ i : BitVec 5, 17 ≤ i.toNat → s.readReg i = 0) ∧
    (∀ (i : BitVec 5) (v : Nat) (rest : List Turn), s.agenda = .writeReg i v :: rest → i ≠ 0#5 → i ≠ 5#5 →
      step s = .next { s with agenda := rest }) ∧
    (∀ (v : Nat) (rest : List Turn), s.agenda = .writeReg 5#5 v :: rest →
      (s.busy = false → step s = .next { s with agenda := rest, bodyLen := v }) ∧
      (s.busy = true → step s = .next { s with agenda := rest }))

/-- The host's accesses beside registers it writes. A read (of a register, of a byte of `BODY` or of `GRID`) completes and has no
side effect on the block (R54, R40); what it gives is the register, or the byte below `BODY_LEN`, or the byte of the finished image;
where the spec gives "any value" (U26, U27) nothing is said of it but its width. That it stands in `hostRead`, with a count beside it,
is the model's choice (log entries 19, 28). A write of a byte of `BODY` while `BUSY = 0` writes that byte and nothing else (R32);
while `BUSY = 1` the model refuses it by name (R281, U28; log entry 12). -/
def Obligations.HostAccessesReachOnlyTheirByte : Prop :=
  ∀ (s : State) (rest : List Turn),
    (∀ i, s.agenda = .readReg i :: rest →
      ∃ v n, step s = .next { s with agenda := rest, hostRead := v, freeCount := n } ∧
        (s.busy = false ∧ s.phase ≠ .error ∨ i.toNat < 6 ∨ 15 < i.toNat → v = s.readReg i) ∧
        (i = 6#5 ∨ i = 7#5 → v < 2 ^ 32) ∧ (8 ≤ i.toNat → i.toNat ≤ 12 → v < 256)) ∧
    (∀ a, s.agenda = .readBody a :: rest →
      ∃ v n, step s = .next { s with agenda := rest, hostRead := v, freeCount := n } ∧ v < 256 ∧
        (a < s.bodyLen → v = (Memory.read s.body a).toNat)) ∧
    (∀ a, s.agenda = .readGrid a :: rest →
      ∃ v n, step s = .next { s with agenda := rest, hostRead := v, freeCount := n } ∧ v < 256 ∧
        (s.phase = .done → a < 3 * s.hdrWidth.toNat * s.hdrHeight.toNat → v = (Memory.read s.grid a).toNat)) ∧
    ∀ (a : Nat) (v : Byte), s.agenda = .writeBody a v :: rest →
      (s.body.wf = true → s.busy = false →
        ∃ m, step s = .next { s with agenda := rest, body := m } ∧
          ∀ b, Memory.read m b = if b = a then v else Memory.read s.body b) ∧
      (s.busy = true → step s = .refused .bodyWrittenWhileBusy)

/-! ### Commands -/

/-- R201: `CMD.START` from `IDLE`, `DONE` or `ERROR` re-initialises the registers of the rule and enters `FRAME`, writes nothing
else, and is lost while busy; `SEQ.IDLE` is no step. That the scratch registers stay is log entry 9 (DEDUCED). -/
def Obligations.StartBeginsANewDecode : Prop :=
  ∀ s : State,
    (s.busy = false →
      exec .cmdStart s = .next { s with
        errCode := 0#4, errInfo0 := 0, errInfo1 := 0
        hdrValid := false, hdrWidth := 0#32, hdrHeight := 0#32, hdrBitDepth := 0#8
        hdrColorType := 0#8, hdrCompression := 0#8, hdrFilter := 0#8, hdrInterlace := 0#8
        pos := 0, chunkTable := []
        ci := 0, compLen := 0, inflReq := false, inflLen := 0
        need := 0#66, rowBytes := 0#34, row := 0#33
        phase := .frame }) ∧
    (s.busy = true → exec .cmdStart s = .next s) ∧
    exec .seqIdle s = .next s

/-- R202: `CMD.CLEAR` writes the same registers but returns to `IDLE`; `BODY`, `BODY_LEN` and the other memories stay; it is lost
while busy. That the scratch registers `CH_START`, `L`, `TYPE`, `FT` stay too is the model's reading, log entry 9 (DEDUCED): the
rule's register list does not name them, its prose says "its state after reset". -/
def Obligations.ClearReturnsToIdle : Prop :=
  ∀ s : State,
    (s.busy = false →
      exec .cmdClear s = .next { s with
        errCode := 0#4, errInfo0 := 0, errInfo1 := 0
        hdrValid := false, hdrWidth := 0#32, hdrHeight := 0#32, hdrBitDepth := 0#8
        hdrColorType := 0#8, hdrCompression := 0#8, hdrFilter := 0#8, hdrInterlace := 0#8
        pos := 0, chunkTable := []
        ci := 0, compLen := 0, inflReq := false, inflLen := 0
        need := 0#66, rowBytes := 0#34, row := 0#33
        phase := .idle }) ∧
    (s.busy = true → exec .cmdClear s = .next s)

/-- R203: writing 0 or 3 to `CMD` does nothing in any phase; any command written while busy does nothing and is lost: after it the
state is as before, the write taken off the agenda.
That a value of 4 or more written to `CMD` is the command of its low two bits is log entry 13 (DEDUCED); the agenda is
log entry 4. -/
def Obligations.NopReservedAndBusyCommandsDoNothing : Prop :=
  ∀ s : State,
    exec .cmdNop s = .next s ∧ exec .cmdReserved s = .next s ∧
    (s.busy = true → exec .cmdStart s = .next s ∧ exec .cmdClear s = .next s) ∧
    ∀ (v : Nat) (rest : List Turn), s.agenda = .writeReg 0#5 v :: rest → (v % 4 = 0 ∨ v % 4 = 3 ∨ s.busy = true) →
      step s = .next { s with agenda := rest }

/-- R201 "it leaves `IDLE` only by this command": whatever agent moves, only the host's write of code 1 to `CMD` leaves `IDLE`, and
it leads to `FRAME`.
That a value of 4 or more written to `CMD` is the command of its low two bits is log entry 13 (DEDUCED). -/
def Obligations.IdleIsLeftOnlyByStart : Prop :=
  ∀ s t : State, s.phase = .idle → step s = .next t → t.phase ≠ .idle →
    t.phase = .frame ∧ ∃ v rest, s.agenda = .writeReg 0#5 v :: rest ∧ v % 4 = 1

/-! ### A step runs the decoded instruction -/

/-- The step runs what the decoder reads: the sequencer's turn (and a step with no turn waiting) runs the micro-operation of the
`PHASE` code (R22, R93), a host write of `CMD` the command (R30, R94), each on the state with the turn taken off the agenda.
That a value of 4 or more written to `CMD` is the command of its low two bits is log entry 13 (DEDUCED); the agenda is
log entry 4. -/
def Obligations.StepRunsTheFetchedInstruction : Prop :=
  ∀ (s : State) (i : Instr) (rest : List Turn),
    (decode .phase [s.phase.code.setWidth 8] = .ok (i, []) →
      (s.agenda = [] → step s = exec i s) ∧
      (s.agenda = .sequencer :: rest → step s = exec i { s with agenda := rest })) ∧
    (∀ v, s.agenda = .writeReg 0#5 v :: rest → decode .cmd [BitVec.ofNat 8 v] = .ok (i, []) →
      step s = exec i { s with agenda := rest })

/-- In `FRAME` with unread bytes, when the bytes of `BODY` at `POS` decode to a chunk instruction, the micro-operation is that
instruction (R121, R90), also where it raises `TruncatedChunk`. -/
def Obligations.FrameStepRunsTheChunkAtPos : Prop :=
  ∀ (s : State) (i : Instr) (after : List Byte), s.phase = .frame → s.pos ≠ s.bodyLen →
    decode .chunk (Memory.readBytes s.body s.pos (s.bodyLen - s.pos)) = .ok (i, after) →
    exec .seqFrame s = exec i s

/-- In `ROWS` with a row left, the micro-operation completes, and is the row instruction its filter byte decodes to (R161, R91). -/
def Obligations.RowsStepRunsTheRowOfItsFilterByte : Prop :=
  ∀ (s : State) (i : Instr), s.row.toNat ≠ s.hdrHeight.toNat →
    decode .row [Memory.read s.infl (s.row.toNat * (1 + s.rowBytes.toNat))] = .ok (i, []) →
    ∃ t, exec .seqRows s = .next t ∧ exec i s = .next t

/-- `HEADER`, `CONCAT` and `ENDCHECK` do to the entry they examine (chunk 0, chunk `CI`, the last) what its type's instruction
does in that phase (R127 to R130). -/
def Obligations.HeaderConcatEndcheckRunTheirChunk : Prop :=
  ∀ (s : State) (e : ChunkEntry),
    (s.phase = .header → s.chunkTable.head? = some e →
      exec .seqHeader s = exec (decodeChunk e.payLen e.typeCode) s) ∧
    (s.phase = .concat → s.ci ≠ s.chunkTable.length → s.chunkTable[s.ci]? = some e →
      exec .seqConcat s = exec (decodeChunk e.payLen e.typeCode) s) ∧
    (s.phase = .endcheck → s.chunkTable.getLast? = some e →
      exec .seqEndcheck s = exec (decodeChunk e.payLen e.typeCode) s)

/-! ### The Byte Cursor -/

/-- R50: a 4-byte read is big-endian, at any offset (R52). -/
def Obligations.FourByteReadsAreBigEndian : Prop :=
  ∀ (m : Memory) (off : Nat),
    (Memory.read4 m off).toNat =
      (Memory.read m off).toNat * 2 ^ 24 + (Memory.read m (off + 1)).toNat * 2 ^ 16 +
        (Memory.read m (off + 2)).toNat * 2 ^ 8 + (Memory.read m (off + 3)).toNat

/-- R110, R111: `READ_U32` and `READ_U8` as functions of `(M, n, pos)`: the value, big-endian, and the new position, or
`OutOfBounds` with the position and the bytes remaining. -/
def Obligations.CursorReadsOrIsOutOfBounds : Prop :=
  ∀ (m : Memory) (n pos : Nat), pos ≤ n →
    (n - pos < 4 → cursorU32 m n pos = .error ⟨.outOfBounds, pos, n - pos⟩) ∧
    (4 ≤ n - pos → ∃ v : U32, cursorU32 m n pos = .ok (v, pos + 4) ∧
      v.toNat = (Memory.read m pos).toNat * 2 ^ 24 + (Memory.read m (pos + 1)).toNat * 2 ^ 16 +
        (Memory.read m (pos + 2)).toNat * 2 ^ 8 + (Memory.read m (pos + 3)).toNat) ∧
    (n - pos < 1 → cursorU8 m n pos = .error ⟨.outOfBounds, pos, 0⟩) ∧
    (1 ≤ n - pos → cursorU8 m n pos = .ok (Memory.read m pos, pos + 1))

/-- R112: the laws of the cursor: (1), (4) the result is a function of the bytes from `pos` up to `n`, of `n` and of `pos`, and no
byte at or beyond `n` is read; (2), (4) on success the position advances by 4 or 1 and stays within `n`; (3) re-serialising the
value gives the four bytes back. The spec marks these laws as its own inference ("derived: from rules R110 and R111"). -/
def Obligations.CursorLawsHold : Prop :=
  ∀ (m m' : Memory) (n pos : Nat), pos ≤ n →
    (∀ a, pos ≤ a → a < n → Memory.read m a = Memory.read m' a) →
      cursorU32 m n pos = cursorU32 m' n pos ∧ cursorU8 m n pos = cursorU8 m' n pos ∧
      (∀ v p, cursorU32 m n pos = .ok (v, p) → p - pos = 4 ∧ pos ≤ p ∧ p ≤ n ∧
        beBytes v = [Memory.read m pos, Memory.read m (pos + 1), Memory.read m (pos + 2), Memory.read m (pos + 3)]) ∧
      (∀ v p, cursorU8 m n pos = .ok (v, p) → p - pos = 1 ∧ pos ≤ p ∧ p ≤ n)

/-- `READ_U32` as an instruction completes where 4 bytes remain, writing the value where its caller keeps it and the new position
in `POS` or in the parser's position, and nothing else; else it raises `OutOfBounds` (R110). The places are the model's choice,
log entry 6. -/
def Obligations.ReadU32InstructionCompletes : Prop :=
  ∀ (m : ByteMem) (n pos : Nat) (s : State), pos ≤ n →
    (4 ≤ n - pos →
      exec (.readU32 .frameLength m n pos) s = .next { s with len := Memory.read4 (s.mem m) pos, pos := pos + 4 } ∧
      exec (.readU32 .frameType m n pos) s = .next { s with typ := Memory.read4 (s.mem m) pos, pos := pos + 4 } ∧
      exec (.readU32 .hdrWidth m n pos) s =
        .next { s with hdrWidth := Memory.read4 (s.mem m) pos, hdrPos := pos + 4 } ∧
      exec (.readU32 .hdrHeight m n pos) s =
        .next { s with hdrHeight := Memory.read4 (s.mem m) pos, hdrPos := pos + 4 }) ∧
    (n - pos < 4 → ∀ dst, exec (.readU32 dst m n pos) s = .next (s.raise .outOfBounds pos (n - pos)))

/-- `READ_U8` as an instruction completes where a byte remains, writing it where its caller keeps it and the parser's position,
and nothing else; else it raises `OutOfBounds` (R111). The places are the model's choice, log entry 6. -/
def Obligations.ReadU8InstructionCompletes : Prop :=
  ∀ (m : ByteMem) (n pos : Nat) (s : State), pos ≤ n →
    (1 ≤ n - pos →
      exec (.readU8 .hdrBitDepth m n pos) s =
        .next { s with hdrBitDepth := Memory.read (s.mem m) pos, hdrPos := pos + 1 } ∧
      exec (.readU8 .hdrColorType m n pos) s =
        .next { s with hdrColorType := Memory.read (s.mem m) pos, hdrPos := pos + 1 } ∧
      exec (.readU8 .hdrCompression m n pos) s =
        .next { s with hdrCompression := Memory.read (s.mem m) pos, hdrPos := pos + 1 } ∧
      exec (.readU8 .hdrFilter m n pos) s =
        .next { s with hdrFilter := Memory.read (s.mem m) pos, hdrPos := pos + 1 } ∧
      exec (.readU8 .hdrInterlace m n pos) s =
        .next { s with hdrInterlace := Memory.read (s.mem m) pos, hdrPos := pos + 1 }) ∧
    (n - pos < 1 → ∀ dst, exec (.readU8 dst m n pos) s = .next (s.raise .outOfBounds pos 0))

/-! ### Framing -/

/-- R121 to R124: one step of `FRAME`. At the end of `BODY` only `PHASE` changes; with 1 to 3 bytes left `OutOfBounds`; with the
record not fitting `TruncatedChunk`; else one entry is appended and `POS` advances by `12 + L`, within `BODY_LEN`; nothing else
but the scratch registers is written. -/
def Obligations.FrameStepFramesOneRecordOrFails : Prop :=
  ∀ s : State, s.pos ≤ s.bodyLen →
    (s.pos = s.bodyLen → exec .seqFrame s = .next { s with phase := .header }) ∧
    (1 ≤ s.bodyLen - s.pos → s.bodyLen - s.pos ≤ 3 →
      exec .seqFrame s = .next (s.raise .outOfBounds s.pos (s.bodyLen - s.pos))) ∧
    (4 ≤ s.bodyLen - s.pos → (Memory.read4 s.body s.pos).toNat + 12 > s.bodyLen - s.pos →
      exec .seqFrame s = .next (s.raise .truncatedChunk s.pos (Memory.read4 s.body s.pos).toNat)) ∧
    ((Memory.read4 s.body s.pos).toNat + 12 ≤ s.bodyLen - s.pos →
      exec .seqFrame s = .next { s with
        chStart := s.pos
        len := Memory.read4 s.body s.pos
        typ := Memory.read4 s.body (s.pos + 4)
        chunkTable := s.chunkTable ++ [⟨Memory.read4 s.body (s.pos + 4), s.pos + 8, Memory.read4 s.body s.pos⟩]
        pos := s.pos + 12 + (Memory.read4 s.body s.pos).toNat } ∧
      s.pos + 12 + (Memory.read4 s.body s.pos).toNat ≤ s.bodyLen)

/-- The four `CHUNK` instructions in phase `FRAME`: every type is framed alike (R124, R127 to R130), and the record that does not
fit raises `TruncatedChunk` (R123). -/
def Obligations.ChunkInstructionsFrameEveryTypeAlike : Prop :=
  ∀ (s : State) (len typ : U32) (i : Instr), s.phase = .frame →
    ((i = .chunkIhdr len ∧ typ = 0x49484452#32) ∨ (i = .chunkIdat len ∧ typ = 0x49444154#32) ∨
      (i = .chunkIend len ∧ typ = 0x49454E44#32) ∨ i = .chunkOther len typ) →
    (len.toNat + 12 ≤ s.bodyLen - s.pos →
      exec i s = .next { s with
        chStart := s.pos
        len := len
        typ := typ
        chunkTable := s.chunkTable ++ [⟨typ, s.pos + 8, len⟩]
        pos := s.pos + 12 + len.toNat }) ∧
    (len.toNat + 12 > s.bodyLen - s.pos → exec i s = .next (s.raise .truncatedChunk s.pos len.toNat))

/-- The `CHUNK` instructions outside `FRAME`: as chunk 0, only an IHDR is no `MalformedStream(2, type)`; as the chunk `CONCAT`
examines, the three types that are not IDAT are passed over; as the last chunk, only an IEND is no `MalformedStream(3, type)`
(R127 to R130). -/
def Obligations.ChunkInstructionsByPosition : Prop :=
  ∀ (s : State) (len typ : U32),
    (s.phase = .header → s.chunkTable ≠ [] →
      exec (.chunkIdat len) s = .next (s.raise .malformedStream 2 0x49444154) ∧
      exec (.chunkIend len) s = .next (s.raise .malformedStream 2 0x49454E44) ∧
      exec (.chunkOther len typ) s = .next (s.raise .malformedStream 2 typ.toNat)) ∧
    (s.phase = .concat → s.ci < s.chunkTable.length →
      exec (.chunkIhdr len) s = .next { s with ci := s.ci + 1 } ∧
      exec (.chunkIend len) s = .next { s with ci := s.ci + 1 } ∧
      exec (.chunkOther len typ) s = .next { s with ci := s.ci + 1 }) ∧
    (s.phase = .endcheck → s.chunkTable ≠ [] →
      exec (.chunkIhdr len) s = .next (s.raise .malformedStream 3 0x49484452) ∧
      exec (.chunkIdat len) s = .next (s.raise .malformedStream 3 0x49444154) ∧
      exec (.chunkOther len typ) s = .next (s.raise .malformedStream 3 typ.toNat))

/-- The own effect of the three named types (R127, R129, R130): an IHDR as chunk 0 in `HEADER` loads the header registers from its
13 bytes, of another length it is `InvalidHeader`; an IDAT in `CONCAT` has its payload appended to `COMP`, every other byte of `COMP`
as before; an IEND as the last chunk in `ENDCHECK` ends the decode, with a payload it is `MalformedStream(4, length)`. -/
def Obligations.NamedChunksHaveTheirEffect : Prop :=
  ∀ (s : State) (len : U32) (e : ChunkEntry),
    (s.phase = .header → s.chunkTable.head? = some e →
      exec (.chunkIhdr 13#32) s = .next { s with
        hdrWidth := Memory.read4 s.body e.payOff
        hdrHeight := Memory.read4 s.body (e.payOff + 4)
        hdrBitDepth := Memory.read s.body (e.payOff + 8)
        hdrColorType := Memory.read s.body (e.payOff + 9)
        hdrCompression := Memory.read s.body (e.payOff + 10)
        hdrFilter := Memory.read s.body (e.payOff + 11)
        hdrInterlace := Memory.read s.body (e.payOff + 12)
        hdrPos := e.payOff + 13
        hdrValid := true
        phase := .validate } ∧
      (len ≠ 13#32 → exec (.chunkIhdr len) s = .next (s.raise .invalidHeader len.toNat 0))) ∧
    (s.phase = .concat → s.comp.wf = true → s.chunkTable[s.ci]? = some e →
      ∃ c, exec (.chunkIdat len) s = .next { s with comp := c, compLen := s.compLen + len.toNat, ci := s.ci + 1 } ∧
        (∀ j, j < len.toNat → Memory.read c (s.compLen + j) = Memory.read s.body (e.payOff + j)) ∧
        ∀ a, a < s.compLen ∨ s.compLen + len.toNat ≤ a → Memory.read c a = Memory.read s.comp a) ∧
    (s.phase = .endcheck → s.chunkTable.getLast? = some e →
      exec (.chunkIend 0#32) s = .next { s with phase := .done } ∧
      (len ≠ 0#32 → exec (.chunkIend len) s = .next (s.raise .malformedStream 4 len.toNat)))

/-! ### The header -/

/-- R140 to R143: one step of `HEADER`: the empty table, the type test, the length test, in this order; then the seven registers
from the 13 payload bytes (R86), `HDR_VALID`, and nothing else but the parser's own position. -/
def Obligations.HeaderStepChecksThenExtracts : Prop :=
  ∀ s : State,
    (s.chunkTable = [] → exec .seqHeader s = .next (s.raise .malformedStream 1 0)) ∧
    ∀ e rest, s.chunkTable = e :: rest →
      (e.typeCode ≠ 0x49484452#32 → exec .seqHeader s = .next (s.raise .malformedStream 2 e.typeCode.toNat)) ∧
      (e.typeCode = 0x49484452#32 → e.payLen ≠ 13#32 →
        exec .seqHeader s = .next (s.raise .invalidHeader e.payLen.toNat 0)) ∧
      (e.typeCode = 0x49484452#32 → e.payLen = 13#32 →
        exec .seqHeader s = .next { s with
          hdrWidth := be32 (Memory.read s.body e.payOff) (Memory.read s.body (e.payOff + 1))
            (Memory.read s.body (e.payOff + 2)) (Memory.read s.body (e.payOff + 3))
          hdrHeight := be32 (Memory.read s.body (e.payOff + 4)) (Memory.read s.body (e.payOff + 5))
            (Memory.read s.body (e.payOff + 6)) (Memory.read s.body (e.payOff + 7))
          hdrBitDepth := Memory.read s.body (e.payOff + 8)
          hdrColorType := Memory.read s.body (e.payOff + 9)
          hdrCompression := Memory.read s.body (e.payOff + 10)
          hdrFilter := Memory.read s.body (e.payOff + 11)
          hdrInterlace := Memory.read s.body (e.payOff + 12)
          hdrPos := e.payOff + 13
          hdrValid := true
          phase := .validate })

/-- R144: one step of `VALIDATE`: the first unsupported field of the list is named with its value; the supported format enters
`CONCAT`. -/
def Obligations.ValidateNamesTheFirstUnsupportedField : Prop :=
  ∀ s : State,
    (s.hdrBitDepth ≠ 8#8 →
      exec .seqValidate s = .next (s.raise .unsupportedImageFormat 1 s.hdrBitDepth.toNat)) ∧
    (s.hdrBitDepth = 8#8 → s.hdrColorType ≠ 2#8 →
      exec .seqValidate s = .next (s.raise .unsupportedImageFormat 2 s.hdrColorType.toNat)) ∧
    (s.hdrBitDepth = 8#8 → s.hdrColorType = 2#8 → s.hdrCompression ≠ 0#8 →
      exec .seqValidate s = .next (s.raise .unsupportedImageFormat 3 s.hdrCompression.toNat)) ∧
    (s.hdrBitDepth = 8#8 → s.hdrColorType = 2#8 → s.hdrCompression = 0#8 → s.hdrFilter ≠ 0#8 →
      exec .seqValidate s = .next (s.raise .unsupportedImageFormat 4 s.hdrFilter.toNat)) ∧
    (s.hdrBitDepth = 8#8 → s.hdrColorType = 2#8 → s.hdrCompression = 0#8 → s.hdrFilter = 0#8 → s.hdrInterlace ≠ 0#8 →
      exec .seqValidate s = .next (s.raise .unsupportedImageFormat 5 s.hdrInterlace.toNat)) ∧
    (s.hdrBitDepth = 8#8 → s.hdrColorType = 2#8 → s.hdrCompression = 0#8 → s.hdrFilter = 0#8 → s.hdrInterlace = 0#8 →
      exec .seqValidate s = .next { s with ci := 0, compLen := 0, phase := .concat })

/-! ### Concatenation and inflate -/

/-- R205, R206: one step of `CONCAT`: at the end the request; an IDAT's payload bytes are appended to `COMP` in order, every other
byte of `COMP` as before; a chunk of another type is passed over. -/
def Obligations.ConcatAppendsImageDataOrPassesOver : Prop :=
  ∀ s : State, s.comp.wf = true →
    (s.ci = s.chunkTable.length → exec .seqConcat s = .next { s with inflReq := true, phase := .inflate }) ∧
    ∀ e, s.ci ≠ s.chunkTable.length → s.chunkTable[s.ci]? = some e →
      (e.typeCode ≠ 0x49444154#32 → exec .seqConcat s = .next { s with ci := s.ci + 1 }) ∧
      (e.typeCode = 0x49444154#32 →
        ∃ c, exec .seqConcat s =
            .next { s with comp := c, compLen := s.compLen + e.payLen.toNat, ci := s.ci + 1 } ∧
          (∀ j, j < e.payLen.toNat → Memory.read c (s.compLen + j) = Memory.read s.body (e.payOff + j)) ∧
          ∀ a, a < s.compLen ∨ s.compLen + e.payLen.toNat ≤ a → Memory.read c a = Memory.read s.comp a)

/-- R208, R209: one step of `INFLATE`: no answer, no step; `ok` drops the request and enters `LENCHECK`, `INFL` and `INFL_LEN` being
written already (R60; the next statement); `fail` is `DecompressionError(COMP_LEN, 0)`. The answer's place `inflAnswer` is the
model's, log entry 5. -/
def Obligations.InflateWaitsThenTakesTheAnswer : Prop :=
  ∀ s : State,
    (s.inflAnswer = none → exec .seqInflate s = .next s) ∧
    (s.inflAnswer = some .ok → exec .seqInflate s = .next { s with
        inflReq := false, inflAnswer := none, phase := .lencheck }) ∧
    (s.inflAnswer = some .fail → exec .seqInflate s = .next { s with
        errCode := 7#4, errInfo0 := s.compLen, errInfo1 := 0
        hdrValid := false, inflReq := false, inflAnswer := none, phase := .error })

/-- R207, R208, R60, R284: the collaborator's turn. With no request outstanding, or an answer waiting, it changes nothing. An
outstanding request is answered as its function says of `COMP[0..COMP_LEN)`: where it has no answer, nothing is written; with
`ok(bytes)`, `INFL` and `INFL_LEN` hold the bytes in the state in which the answer stands delivered, every byte of `INFL` above them as
before; with `fail`, only the answer is written; and in each case nothing else is. The answer, and what it leaves in `INFL`, depend on
the submitted bytes alone. That the collaborator is a table in State, and the answer's place `inflAnswer`, are the model's choice,
log entries 3 and 5. -/
def Obligations.CollaboratorAnswersAFunctionOfComp : Prop :=
  ∀ (s : State) (rest : List Turn), s.agenda = .collaborator :: rest →
    (s.inflReq = false ∨ s.inflAnswer ≠ none → step s = .next { s with agenda := rest }) ∧
    (s.inflReq = true → s.inflAnswer = none →
      ∀ a, a = answerFor s.collab (Memory.readBytes s.comp 0 s.compLen) →
        (a = none → step s = .next { s with agenda := rest }) ∧
        (∀ bytes, a = some (.ok bytes) → s.infl.wf = true →
          ∃ m, step s = .next { s with agenda := rest, infl := m, inflLen := bytes.length, inflAnswer := some .ok } ∧
            (∀ i, (h : i < bytes.length) → Memory.read m i = bytes[i]) ∧
            ∀ i, bytes.length ≤ i → Memory.read m i = Memory.read s.infl i) ∧
        (a = some .fail → step s = .next { s with agenda := rest, inflAnswer := some .fail })) ∧
    ∀ (t s' t' : State) (rest' : List Turn), t.agenda = .collaborator :: rest' →
      s.inflReq = true → t.inflReq = true → s.inflAnswer = none → t.inflAnswer = none → s.collab = t.collab →
      s.infl.wf = true → t.infl.wf = true →
      s.compLen = t.compLen → (∀ i, i < s.compLen → Memory.read s.comp i = Memory.read t.comp i) →
      step s = .next s' → step t = .next t' →
      s'.inflAnswer = t'.inflAnswer ∧
      (s'.inflAnswer = some .ok →
        s'.inflLen = t'.inflLen ∧ ∀ i, i < s'.inflLen → Memory.read s'.infl i = Memory.read t'.infl i)

/-! ### Reconstruction -/

/-- R160: one step of `LENCHECK`: `3 W` and `H (1 + 3 W)` exact, never wrapped; too short is `TruncatedImageData(INFL_LEN, 0)`;
else `ROW = 0`, `PREV_ROW` zero over the row, and `ROWS`. -/
def Obligations.LengthCheckIsExact : Prop :=
  ∀ s : State,
    (s.inflLen < s.hdrHeight.toNat * (1 + 3 * s.hdrWidth.toNat) →
      exec .seqLencheck s = .next (s.raise .truncatedImageData s.inflLen 0)) ∧
    (s.hdrHeight.toNat * (1 + 3 * s.hdrWidth.toNat) ≤ s.inflLen →
      ∃ (rb : BitVec 34) (nd : BitVec 66) (p : Memory),
        exec .seqLencheck s = .next { s with
          rowBytes := rb, need := nd, row := 0#33, prevRow := p, phase := .rows } ∧
        rb.toNat = 3 * s.hdrWidth.toNat ∧
        nd.toNat = s.hdrHeight.toNat * (1 + 3 * s.hdrWidth.toNat) ∧
        (∀ i, i < 3 * s.hdrWidth.toNat → Memory.read p i = 0#8) ∧
        ∀ i, 3 * s.hdrWidth.toNat ≤ i → Memory.read p i = Memory.read s.prevRow i)

/-- R170, and the end of the rows (R161): `ROWS` ends when `ROW = H`; a filter byte above 4 raises `InvalidFilterType(ROW, FT)`
before any sample of the row; `ROW.ILLEGAL` is that error. -/
def Obligations.RowsEndOrRejectTheFilterByte : Prop :=
  ∀ s : State,
    (s.row.toNat = s.hdrHeight.toNat → exec .seqRows s = .next { s with phase := .endcheck }) ∧
    (s.row.toNat ≠ s.hdrHeight.toNat →
      ∀ ft, ft = Memory.read s.infl (s.row.toNat * (1 + s.rowBytes.toNat)) → 4 < ft.toNat →
        exec .seqRows s = .next (s.raise .invalidFilterType s.row.toNat ft.toNat)) ∧
    ∀ ft : Byte, exec (.rowIllegal ft) s = .next (s.raise .invalidFilterType s.row.toNat ft.toNat)

/-- R163 to R168 and R169 over `paeth`: each of the five row instructions completes, and every sample of the row in `CUR_ROW` is the
stored byte plus its predictor of the reconstructed neighbours, modulo 256; the halving of `ROW.AVG` is of the 9-bit sum. -/
def Obligations.RowInstructionsReconstructEverySample : Prop :=
  ∀ s : State, s.curRow.wf = true →
    ∀ (ins : Instr) (pred : Byte → Byte → Byte → Byte),
      ((ins = .rowNone ∧ pred = fun _ _ _ => 0#8) ∨
        (ins = .rowSub ∧ pred = fun a _ _ => a) ∨
        (ins = .rowUp ∧ pred = fun _ b _ => b) ∨
        (ins = .rowAvg ∧ pred = fun a b _ => BitVec.ofNat 8 ((a.toNat + b.toNat) / 2)) ∨
        (ins = .rowPaeth ∧ pred = paeth)) →
      ∃ t, exec ins s = .next t ∧
        ∀ i, i < s.rowBytes.toNat →
          Memory.read t.curRow i =
            Memory.read s.infl (s.row.toNat * (1 + s.rowBytes.toNat) + 1 + i) +
              pred (if 3 ≤ i then Memory.read t.curRow (i - 3) else 0#8) (Memory.read s.prevRow i)
                (if 3 ≤ i then Memory.read s.prevRow (i - 3) else 0#8)

/-- R171 and the frame of the five row instructions: the finished row goes to `GRID` at `r * RB` and to `PREV_ROW`, `ROW` advances,
`FT` holds the filter type; every other byte of the three memories and every other register is unchanged. -/
def Obligations.RowInstructionsCommitTheRowAndNothingElse : Prop :=
  ∀ s : State, s.memoriesCanonical = true →
    ∀ (ins : Instr) (ft : Byte),
      ((ins = .rowNone ∧ ft = 0#8) ∨ (ins = .rowSub ∧ ft = 1#8) ∨ (ins = .rowUp ∧ ft = 2#8) ∨
        (ins = .rowAvg ∧ ft = 3#8) ∨ (ins = .rowPaeth ∧ ft = 4#8)) →
      ∃ c g p, exec ins s =
          .next { s with ft := ft, curRow := c, grid := g, prevRow := p, row := s.row + 1#33 } ∧
        (∀ i, i < s.rowBytes.toNat →
          Memory.read g (s.row.toNat * s.rowBytes.toNat + i) = Memory.read c i ∧ Memory.read p i = Memory.read c i) ∧
        (∀ a, s.rowBytes.toNat ≤ a →
          Memory.read c a = Memory.read s.curRow a ∧ Memory.read p a = Memory.read s.prevRow a) ∧
        ∀ a, a < s.row.toNat * s.rowBytes.toNat ∨ s.row.toNat * s.rowBytes.toNat + s.rowBytes.toNat ≤ a →
          Memory.read g a = Memory.read s.grid a

/-- R176: the Paeth predictor in exact signed arithmetic. -/
def Obligations.PaethIsTheThreeNeighbourPredictor : Prop :=
  ∀ a b c : Byte, ∀ p pa pb pc : Int,
    p = (a.toNat : Int) + b.toNat - c.toNat → pa = |p - a.toNat| → pb = |p - b.toNat| → pc = |p - c.toNat| →
    (pa ≤ pb → pa ≤ pc → paeth a b c = a) ∧
    (¬ (pa ≤ pb ∧ pa ≤ pc) → pb ≤ pc → paeth a b c = b) ∧
    (¬ (pa ≤ pb ∧ pa ≤ pc) → ¬ pb ≤ pc → paeth a b c = c)

/-- R177: the tie-break: the degenerate, row 0 and column 0 cases, `c = a`, `c = b`, a tie of `pa` and `pb`, and the ties and
extremes of the rule's table, which the spec marks as its own inference ("derived: from rule R176"). -/
def Obligations.PaethTieBreakIsFixed : Prop :=
  (∀ a b c : Byte,
    paeth a a a = a ∧ paeth a a c = a ∧ paeth a 0#8 0#8 = a ∧ paeth 0#8 b 0#8 = b ∧ (b ≠ a → paeth a b a = b) ∧ paeth a b b = a ∧
    (|(b.toNat : Int) - c.toNat| = |(a.toNat : Int) + b.toNat - 2 * c.toNat| →
      |(b.toNat : Int) - c.toNat| < |(a.toNat : Int) - c.toNat| → paeth a b c = a) ∧
    (|(a.toNat : Int) - c.toNat| = |(a.toNat : Int) + b.toNat - 2 * c.toNat| →
      |(a.toNat : Int) - c.toNat| < |(b.toNat : Int) - c.toNat| → paeth a b c = b) ∧
    (a ≠ b → |(b.toNat : Int) - c.toNat| = |(a.toNat : Int) - c.toNat| → 0 < |(b.toNat : Int) - c.toNat| →
      paeth a b c = c)) ∧
  paeth 6#8 12#8 10#8 = 6#8 ∧ paeth 12#8 6#8 10#8 = 6#8 ∧ paeth 10#8 20#8 15#8 = 15#8 ∧
  paeth 0#8 0#8 255#8 = 0#8 ∧ paeth 255#8 255#8 0#8 = 255#8

/-- The corner cases of R166, R167 and R169: over a zero previous row `ROW.UP` gives the samples of `ROW.NONE` and `ROW.PAETH`
those of `ROW.SUB`; on any row the first pixel of `ROW.SUB` is that of `ROW.NONE` and of `ROW.PAETH` that of `ROW.UP`. For `ROW.PAETH` the
spec marks them as its own inference ("derived: from rule R176"). -/
def Obligations.FirstRowAndFirstColumnDegenerate : Prop :=
  ∀ (s n u b p : State), s.curRow.wf = true →
    exec .rowNone s = .next n → exec .rowUp s = .next u → exec .rowSub s = .next b → exec .rowPaeth s = .next p →
    ((∀ i, i < s.rowBytes.toNat → Memory.read s.prevRow i = 0#8) →
      ∀ i, i < s.rowBytes.toNat →
        Memory.read u.curRow i = Memory.read n.curRow i ∧ Memory.read p.curRow i = Memory.read b.curRow i) ∧
    ∀ i, i < s.rowBytes.toNat → i < 3 →
      Memory.read b.curRow i = Memory.read n.curRow i ∧ Memory.read p.curRow i = Memory.read u.curRow i

/-- R179: reconstruction inverts filtering: where the record of the row was made from a row `x` by subtracting, modulo 256, the
predictions of its filter type from the neighbours in `x` and in the previous row, the row instruction gives `x` back.
For filter types 0, 1 and 2 the rule states it; for types 3 and 4 the spec marks it as its own inference ("The same holds for types 3
and 4 ... derived: from rule R164"). -/
def Obligations.ReconstructionInvertsFiltering : Prop :=
  ∀ (s t : State) (x : Nat → Byte) (ft : Byte) (ins : Instr), s.curRow.wf = true → ft.toNat ≤ 4 →
    decode .row [ft] = .ok (ins, []) →
    (∀ i, i < s.rowBytes.toNat →
      Memory.read s.infl (s.row.toNat * (1 + s.rowBytes.toNat) + 1 + i) =
        x i - predictorOf ft (if 3 ≤ i then x (i - 3) else 0#8) (Memory.read s.prevRow i)
          (if 3 ≤ i then Memory.read s.prevRow (i - 3) else 0#8)) →
    exec ins s = .next t →
    ∀ i, i < s.rowBytes.toNat → Memory.read t.curRow i = x i

/-- R178, R286: a row depends on nothing but its record's stored bytes and the previous row: two states that agree on those commit
the same row, whatever else differs (the old contents of `CUR_ROW`, earlier rows, `INFL` past the record). -/
def Obligations.RowDependsOnlyOnItsRecordAndThePreviousRow : Prop :=
  ∀ (s t s' t' : State) (ins : Instr),
    (ins = .rowNone ∨ ins = .rowSub ∨ ins = .rowUp ∨ ins = .rowAvg ∨ ins = .rowPaeth) →
    s.memoriesCanonical = true → t.memoriesCanonical = true → s.rowBytes = t.rowBytes → s.row = t.row →
    (∀ i, i < s.rowBytes.toNat →
      Memory.read s.infl (s.row.toNat * (1 + s.rowBytes.toNat) + 1 + i) =
        Memory.read t.infl (s.row.toNat * (1 + s.rowBytes.toNat) + 1 + i)) →
    (∀ i, i < s.rowBytes.toNat → Memory.read s.prevRow i = Memory.read t.prevRow i) →
    exec ins s = .next s' → exec ins t = .next t' →
    ∀ i, i < s.rowBytes.toNat →
      Memory.read s'.curRow i = Memory.read t'.curRow i ∧ Memory.read s'.prevRow i = Memory.read t'.prevRow i ∧
      Memory.read s'.grid (s.row.toNat * s.rowBytes.toNat + i) = Memory.read t'.grid (s.row.toNat * s.rowBytes.toNat + i)

/-! ### The end of a decode and errors -/

/-- R210: one step of `ENDCHECK`: the last chunk must be an empty IEND; and as the last chunk `CHUNK.IEND` does the same. -/
def Obligations.EndCheckWantsAnEmptyEndMarkerLast : Prop :=
  ∀ (s : State) (e : ChunkEntry), s.chunkTable.getLast? = some e →
    (e.typeCode ≠ 0x49454E44#32 → exec .seqEndcheck s = .next (s.raise .malformedStream 3 e.typeCode.toNat)) ∧
    (e.typeCode = 0x49454E44#32 → e.payLen ≠ 0#32 →
      exec .seqEndcheck s = .next (s.raise .malformedStream 4 e.payLen.toNat)) ∧
    (e.typeCode = 0x49454E44#32 → e.payLen = 0#32 → exec .seqEndcheck s = .next { s with phase := .done })

/-- R211, R240, R273: `DONE` and `ERROR` are terminal: the sequencer's micro-operation changes nothing there; and whatever agent
moves, a step keeps the phase and the result (R213), unless it is the host's `CMD.CLEAR` (to `IDLE`), the host's `CMD.START` (to
`FRAME`) or reset (to `IDLE`). `State.result` is the model's name for what R213 lists, log entry 20.
That a value of 4 or more written to `CMD` is the command of its low two bits is log entry 13 (DEDUCED). -/
def Obligations.DoneAndErrorAreTerminal : Prop :=
  ∀ s : State,
    exec .seqDone s = .next s ∧ exec .seqError s = .next s ∧
    (s.phase = .done ∨ s.phase = .error →
      (s.agenda = [] → step s = .next s) ∧
      (∀ rest, s.agenda = .sequencer :: rest → step s = .next { s with agenda := rest }) ∧
      ∀ t, step s = .next t →
        (t.phase = s.phase ∧ t.result = s.result) ∨
        (t.phase = .idle ∧ ∃ v rest, s.agenda = .writeReg 0#5 v :: rest ∧ v % 4 = 2) ∨
        (t.phase = .frame ∧ t.pos = 0 ∧ ∃ v rest, s.agenda = .writeReg 0#5 v :: rest ∧ v % 4 = 1) ∨
        (t.phase = .idle ∧ ∃ rest, s.agenda = .reset :: rest))

/-- R240, R231: error entry writes the code of the error, its two information values, `HDR_VALID`, `INFL_REQ` and `PHASE`, and
nothing else; the eight codes are 1 to 8 in the document's order. -/
def Obligations.ErrorEntryWritesSixRegistersAndNothingElse : Prop :=
  (∀ (s : State) (e : PngError) (i0 i1 : Nat),
    s.raise e i0 i1 = { s with
      errCode := e.code, errInfo0 := i0, errInfo1 := i1, hdrValid := false, inflReq := false, phase := .error }) ∧
  PngError.outOfBounds.code = 1#4 ∧ PngError.truncatedChunk.code = 2#4 ∧ PngError.invalidHeader.code = 3#4 ∧
  PngError.unsupportedImageFormat.code = 4#4 ∧ PngError.truncatedImageData.code = 5#4 ∧
  PngError.invalidFilterType.code = 6#4 ∧ PngError.decompressionError.code = 7#4 ∧ PngError.malformedStream.code = 8#4

/-- R240, R241: whatever micro-operation raises an error, the raising step leaves nothing but the error entry: no other write of
the step is made (the taken answer of the collaborator apart, a field of the model's own, log entry 5). -/
def Obligations.RaisingStepKeepsNothingElse : Prop :=
  ∀ (s t : State) (i : Instr), decodePhase s.phase.code = .ok i → s.phase ≠ .error →
    exec i s = .next t → t.phase = .error →
    ∃ e i0 i1, t = State.raise e i0 i1 { s with inflAnswer := t.inflAnswer }

/-- R244, R29: in `ERROR` a step leaves the phase and the three error registers as they are, unless it is the host's `CMD.CLEAR`
(to `IDLE`), the host's `CMD.START` (to `FRAME`) or reset (to `IDLE`), and each of these clears the three registers.
That a value of 4 or more written to `CMD` is the command of its low two bits is log entry 13 (DEDUCED). -/
def Obligations.ErrorIsLeftOnlyByClearStartOrReset : Prop :=
  ∀ s t : State, s.phase = .error → step s = .next t →
    (t.phase = .error ∧ t.errCode = s.errCode ∧ t.errInfo0 = s.errInfo0 ∧ t.errInfo1 = s.errInfo1) ∨
    (t.errCode = 0#4 ∧ t.errInfo0 = 0 ∧ t.errInfo1 = 0 ∧
      ((t.phase = .idle ∧ ∃ v rest, s.agenda = .writeReg 0#5 v :: rest ∧ v % 4 = 2) ∨
        (t.phase = .frame ∧ t.pos = 0 ∧ ∃ v rest, s.agenda = .writeReg 0#5 v :: rest ∧ v % 4 = 1) ∨
        (t.phase = .idle ∧ ∃ rest, s.agenda = .reset :: rest)))

/-- R213, R28: the result: there is one exactly in `DONE` and `ERROR`; in `ERROR` it is the three error registers, in `DONE` the
seven header registers, `GRID_ROWS = HDR_HEIGHT` and the `3 W H` bytes of `GRID`; `GRID_ROWS` reads 0 in every other phase. -/
def Obligations.ResultOnlyAtTheEndOfARun : Prop :=
  ∀ s : State,
    (s.result ≠ none ↔ s.phase = .done ∨ s.phase = .error) ∧
    (s.phase = .error → s.result = some (.failed s.errCode s.errInfo0 s.errInfo1)) ∧
    (s.phase = .done → s.gridRows = s.hdrHeight ∧
      s.result = some (.image s.hdrWidth s.hdrHeight s.hdrBitDepth s.hdrColorType s.hdrCompression s.hdrFilter
        s.hdrInterlace s.hdrHeight (Memory.readBytes s.grid 0 (3 * s.hdrWidth.toNat * s.hdrHeight.toNat)))) ∧
    (s.phase ≠ .done → s.gridRows = 0#32)

/-! ### Invariants of every step -/

/-- The invariants below hold at reset. The canonical form of the memories, and that they list nothing at reset, are the model's
choice, log entry 1. -/
def Obligations.ResetMeetsTheInvariants : Prop :=
  State.reset.memoriesCanonical = true ∧ State.reset.ControlInv ∧ State.reset.TableInv ∧ State.reset.CompInv ∧
    State.reset.GridInv

/-- Every step of every agent keeps all six byte memories in their canonical form (`Memory.wf`: offsets strictly rising, no entry equal
to what an unlisted byte reads as). The form is the model's own, log entry 1 (DESIGN CHOICE): the spec gives a memory as a sequence of
bytes (R10), and no representation of it. -/
def Obligations.EveryStepKeepsMemoriesCanonical : Prop :=
  ∀ s t : State, s.memoriesCanonical = true → step s = .next t → t.memoriesCanonical = true

/-- Every step of every agent keeps the control invariant: what R2, R24, R26 to R29, R126, R141, R142, R160, R205 and R210 promise
of the registers at each phase. -/
def Obligations.EveryStepKeepsTheControlInvariant : Prop :=
  ∀ s t : State, s.ControlInv → step s = .next t → t.ControlInv

/-- R33: every step keeps that, while busy, an entry of `CHUNK_TABLE` holds the length and type fields that stand before its
payload in `BODY`. -/
def Obligations.TableEntriesAreTheRecordsOfBody : Prop :=
  ∀ s t : State, s.TableInv → step s = .next t → t.TableInv

/-- R34: every step keeps that `COMP[0..COMP_LEN)` is the concatenation, in order, of the payloads of the image-data chunks
examined so far. -/
def Obligations.CompIsTheConcatenationOfImageData : Prop :=
  ∀ s t : State, s.memoriesCanonical = true → s.CompInv → step s = .next t → t.CompInv

/-- R36, R171, and R161 to R169 over the whole image: every step keeps that the rows of `GRID` below `ROW` are the reconstruction
of their records from their reconstructed neighbours, and that `PREV_ROW` is the last of them, or zeros. -/
def Obligations.GridIsTheReconstructionOfInflatedRows : Prop :=
  ∀ s t : State, s.memoriesCanonical = true → s.ControlInv → s.GridInv → step s = .next t → t.GridInv

/-- In `DONE` every pixel of the image is the document's reconstruction (R89, R163, R164, R173): with `W`, `H` from the header, the
sample of row `r` and index `i = 3 c + k` in `GRID` is the stored byte of `INFL` plus the prediction of the row's filter type from
the samples at the left, above and above left, modulo 256, and the filter type is 0 to 4. -/
def Obligations.DoneImageIsReconstructed : Prop :=
  ∀ s : State, s.ControlInv → s.GridInv → s.phase = .done →
    ∀ r i, r < s.hdrHeight.toNat → i < 3 * s.hdrWidth.toNat →
      ∀ g : Nat → Nat → Byte, (∀ r' i', g r' i' = Memory.read s.grid (r' * (3 * s.hdrWidth.toNat) + i')) →
        ∀ ft : Byte, ft = Memory.read s.infl (r * (1 + 3 * s.hdrWidth.toNat)) →
          ft.toNat ≤ 4 ∧
          g r i = Memory.read s.infl (r * (1 + 3 * s.hdrWidth.toNat) + 1 + i) +
            predictorOf ft (if 3 ≤ i then g r (i - 3) else 0#8) (if r = 0 then 0#8 else g (r - 1) i)
              (if r = 0 then 0#8 else if 3 ≤ i then g (r - 1) (i - 3) else 0#8)

/-- Under the control invariant every read stays in its memory's valid range (R55): a row's record ends within `INFL_LEN`, and every
framed record, its checksum included, within `BODY_LEN`; and once `FRAME` is left the framed records have the byte length of the
body (R131), the first payload at offset 8. -/
def Obligations.RecordsStayWithinValidRanges : Prop :=
  ∀ s : State, s.ControlInv →
    (s.phase = .rows → s.row.toNat ≠ s.hdrHeight.toNat →
      s.row.toNat * (1 + s.rowBytes.toNat) + 1 + s.rowBytes.toNat ≤ s.inflLen) ∧
    (s.busy = true → ∀ e ∈ s.chunkTable, e.payOff + e.payLen.toNat + 4 ≤ s.bodyLen) ∧
    (2 ≤ s.phase.code.toNat → s.phase.code.toNat ≤ 8 →
      (s.chunkTable.map fun e => 12 + e.payLen.toNat).sum = s.bodyLen ∧
      ∀ e rest, s.chunkTable = e :: rest → e.payOff = 8)

/-! ### Rules of the whole machine -/

/-- R31, R32: PNGCORE never writes `BODY` or `BODY_LEN`: they change only by the host's write while not busy, or by reset. -/
def Obligations.OnlyTheHostWritesTheBody : Prop :=
  ∀ s t : State, step s = .next t →
    (t.body ≠ s.body →
      (s.busy = false ∧ ∃ a v rest, s.agenda = .writeBody a v :: rest) ∨ ∃ rest, s.agenda = .reset :: rest) ∧
    (t.bodyLen ≠ s.bodyLen →
      (s.busy = false ∧ ∃ v rest, s.agenda = .writeReg 5#5 v :: rest) ∨ ∃ rest, s.agenda = .reset :: rest)

/-- R26: the seven header registers are written together in `HEADER` and never again during the decode: they change only in a
step of `HEADER`, by `START` or `CLEAR` while not busy, or by reset.
That a value of 4 or more written to `CMD` is the command of its low two bits is log entry 13 (DEDUCED). -/
def Obligations.HeaderIsNotMutatedAfterConstruction : Prop :=
  ∀ s t : State, step s = .next t →
    (t.hdrWidth ≠ s.hdrWidth ∨ t.hdrHeight ≠ s.hdrHeight ∨ t.hdrBitDepth ≠ s.hdrBitDepth ∨
      t.hdrColorType ≠ s.hdrColorType ∨ t.hdrCompression ≠ s.hdrCompression ∨ t.hdrFilter ≠ s.hdrFilter ∨
      t.hdrInterlace ≠ s.hdrInterlace) →
    (s.phase = .header ∧ t.phase = .validate ∧ t.hdrValid = true) ∨
    (s.busy = false ∧ ∃ v rest, s.agenda = .writeReg 0#5 v :: rest ∧ (v % 4 = 1 ∨ v % 4 = 2)) ∨
    ∃ rest, s.agenda = .reset :: rest

/-- R59, R40: no stage writes a memory an earlier stage wrote: apart from reset, `CHUNK_TABLE` changes only in `FRAME` (and is
emptied by a command), `COMP` only in `CONCAT`, `INFL` only by the collaborator while `INFL_REQ = 1`, `GRID` and `CUR_ROW` only in `ROWS`, `PREV_ROW` only in
`LENCHECK` and `ROWS`. -/
def Obligations.EachMemoryIsWrittenByItsStageAlone : Prop :=
  ∀ s t : State, step s = .next t → s.agenda.head? ≠ some .reset →
    (t.chunkTable ≠ s.chunkTable → s.phase = .frame ∨ (s.busy = false ∧ t.chunkTable = [])) ∧
    (t.comp ≠ s.comp → s.phase = .concat) ∧
    (t.infl ≠ s.infl → s.agenda.head? = some .collaborator ∧ s.inflReq = true) ∧
    (t.curRow ≠ s.curRow → s.phase = .rows) ∧
    (t.grid ≠ s.grid → s.phase = .rows) ∧
    (t.prevRow ≠ s.prevRow → s.phase = .lencheck ∨ s.phase = .rows)

/-- R24, R125: `POS` never decreases during a decode, and every step of `FRAME` that stays in `FRAME` advances it by at least 12
within `BODY_LEN`. -/
def Obligations.PosNeverDecreasesDuringADecode : Prop :=
  ∀ s t : State, s.ControlInv → s.busy = true → step s = .next t → t.busy = true →
    s.pos ≤ t.pos ∧
    ((s.agenda = [] ∨ ∃ rest, s.agenda = .sequencer :: rest) → s.phase = .frame → t.phase = .frame → s.pos + 12 ≤ t.pos ∧ t.pos ≤ t.bodyLen)

/-- R212, R287: under the control invariant every sequencer step of a busy block completes, and lowers `workLeft` in a well-founded
order, unless it waits for the collaborator; so no sequence of such steps goes on for ever. (That the collaborator answers is the
spec's own assumption of liveness.) -/
def Obligations.EveryBusyStepCompletesAndMakesProgress : Prop :=
  WellFounded lessWork ∧
  ∀ s : State, s.ControlInv → s.busy = true → (s.agenda = [] ∨ ∃ rest, s.agenda = .sequencer :: rest) →
    (s.phase = .inflate → s.inflAnswer ≠ none) →
    ∃ t, step s = .next t ∧ lessWork t.workLeft s.workLeft

/-- R200: the phases can occur in only one order: a step of the sequencer stays in its phase, goes to the next one, or raises an
error; it leaves no terminal phase. -/
def Obligations.PhasesOccurInOneOrder : Prop :=
  ∀ (s t : State) (i : Instr), decodePhase s.phase.code = .ok i → exec i s = .next t →
    t.phase = s.phase ∨
    (s.busy = true ∧ (t.phase.code.toNat = s.phase.code.toNat + 1 ∨ t.phase = .error))

/-- "Nothing of the previous decode can influence it" (R201), and a decode is a function of `BODY` and of the collaborator (R214):
`CMD.START` on any two states with the same body leaves states that differ only in what no rule of the decode reads (scratch
registers, bytes outside the valid ranges, rows not yet written, the host's last read); such states answer alike, and the states
they answer differ again only in that; in `DONE` and `ERROR` their results are equal. -/
def Obligations.StaleContentsNeverInfluenceADecode : Prop :=
  (∀ s t : State, s.ControlInv → t.ControlInv → s.busy = false → t.busy = false → s.body = t.body →
    s.bodyLen = t.bodyLen → s.collab = t.collab → s.agenda = t.agenda →
    ∃ s' t', exec .cmdStart s = .next s' ∧ exec .cmdStart t = .next t' ∧ s'.SameDecode t') ∧
  (∀ s t s' : State, s.SameDecode t → s.ControlInv → s.memoriesCanonical = true → t.memoriesCanonical = true →
    step s = .next s' → ∃ t', step t = .next t' ∧ s'.SameDecode t') ∧
  ∀ s t : State, s.SameDecode t → s.ControlInv → s.result = t.result

/-! ### Encoding -/

/-- Every well-formed instruction that has an encoding decodes from it to itself, whatever bytes follow (R81, R90, R91, R93, R94). -/
def Obligations.DecodeOfEncodeIsTheInstruction : Prop :=
  ∀ (i : Instr) (f : Format) (bytes rest : List Byte), i.wellFormed = true → encode i = some (f, bytes) →
    decode f (bytes ++ rest) = .ok (i, rest)

/-- R90, R91, R92: the selectors of `CHUNK` and `ROW` are total and unambiguous: every record header and every filter byte decodes
to one well-formed instruction, and that instruction's encoding is those very bytes. -/
def Obligations.EveryRecordDecodesAndEncodesBack : Prop :=
  (∀ len typ : U32, (decodeChunk len typ).wellFormed = true ∧
    encode (decodeChunk len typ) = some (.chunk, beBytes len ++ beBytes typ)) ∧
  ∀ ft : Byte, (decodeRow ft).wellFormed = true ∧ encode (decodeRow ft) = some (.row, [ft])

/-- Words written out from the spec's encodings: the records of R121, R127, R128 (examples) and R96, filter bytes of R91, phase
codes of R22, commands of R94; the reserved phase codes are rejected by name. -/
def Obligations.WrittenOutWordsDecode : Prop :=
  decode .chunk [0x00#8, 0x00#8, 0x00#8, 0x00#8, 0x49#8, 0x45#8, 0x4E#8, 0x44#8, 0xAE#8, 0x42#8, 0x60#8, 0x82#8] =
    .ok (.chunkIend 0#32, [0xAE#8, 0x42#8, 0x60#8, 0x82#8]) ∧
  decode .chunk [0x00#8, 0x00#8, 0x00#8, 0x0D#8, 0x49#8, 0x48#8, 0x44#8, 0x52#8] = .ok (.chunkIhdr 13#32, []) ∧
  decode .chunk [0x00#8, 0x00#8, 0x00#8, 0x02#8, 0x49#8, 0x44#8, 0x41#8, 0x54#8, 0x78#8, 0x9C#8] =
    .ok (.chunkIdat 2#32, [0x78#8, 0x9C#8]) ∧
  decode .chunk [0x00#8, 0x00#8, 0x00#8, 0x05#8, 0x74#8, 0x45#8, 0x58#8, 0x74#8] =
    .ok (.chunkOther 5#32 0x74455874#32, []) ∧
  decode .row [4#8] = .ok (.rowPaeth, []) ∧ decode .row [5#8] = .ok (.rowIllegal 5#8, []) ∧
  decode .phase [7#8] = .ok (.seqRows, []) ∧ decode .phase [11#8] = .error (.reservedPhase 11#4) ∧
  decode .cmd [1#8] = .ok (.cmdStart, []) ∧ decode .cmd [3#8] = .ok (.cmdReserved, [])
end

