-- ==== Sys2Proof/Laws/Memory.lean ====
section
/-! SUPPORT. The laws of byte memories: a read after a write, the canonical form, and that canonical memories with equal bytes
are equal. -/

namespace Sys2Proof.Machine.Memory

@[simp] theorem read_nil (a : Nat) : read [] a = Config.unwrittenByte := rfl

/-- Below the first listed offset every byte reads as unlisted. -/
theorem read_below {lo a : Nat} {m : Memory} (h : wfFrom lo m = true) (ha : a < lo) : read m a = Config.unwrittenByte := by
  induction m generalizing lo with
  | nil => rfl
  | cons c rest ih =>
    obtain ⟨k, v⟩ := c
    simp only [wfFrom, Bool.and_eq_true, decide_eq_true_eq] at h
    have hk : k ≠ a := by omega
    simp only [read, hk, if_false]
    exact ih h.2 (by omega)

theorem wfFrom_mono {lo lo' : Nat} {m : Memory} (h : wfFrom lo m = true) (hl : lo' ≤ lo) : wfFrom lo' m = true := by
  cases m with
  | nil => rfl
  | cons c rest =>
    obtain ⟨k, v⟩ := c
    simp only [wfFrom, Bool.and_eq_true, decide_eq_true_eq] at h ⊢
    exact ⟨⟨by omega, h.1.2⟩, h.2⟩

theorem wfFrom_write {lo a : Nat} {m : Memory} (v : Byte) (h : wfFrom lo m = true) (ha : lo ≤ a) :
    wfFrom lo (write m a v) = true := by
  induction m generalizing lo with
  | nil => by_cases hv : v = Config.unwrittenByte <;> simp [write, wfFrom, hv, ha]
  | cons c rest ih =>
    obtain ⟨k, w⟩ := c
    simp only [wfFrom, Bool.and_eq_true, decide_eq_true_eq] at h
    obtain ⟨⟨hk, hw⟩, hr⟩ := h
    by_cases h1 : a < k
    · by_cases hv : v = Config.unwrittenByte
      · simp [write, h1, hv, wfFrom, hk, hw, hr]
      · have : a + 1 ≤ k := h1
        simp [write, h1, hv, wfFrom, ha, hw, hr, this]
    · by_cases h2 : a = k
      · subst h2
        by_cases hv : v = Config.unwrittenByte
        · simpa [write, hv] using wfFrom_mono hr (by omega)
        · simp [write, hv, wfFrom, ha, hr]
      · have h3 := ih hr (by omega : k + 1 ≤ a)
        simp [write, h1, h2, wfFrom, hk, hw, h3]

/-- A write keeps the canonical form. -/
theorem wf_write {m : Memory} (a : Nat) (v : Byte) (h : m.wf = true) : (write m a v).wf = true :=
  wfFrom_write v h (Nat.zero_le a)

theorem read_write_from {lo a : Nat} {m : Memory} (v : Byte) (b : Nat) (h : wfFrom lo m = true) :
    read (write m a v) b = if b = a then v else read m b := by
  induction m generalizing lo with
  | nil => by_cases hv : v = Config.unwrittenByte <;> by_cases hb : b = a <;> simp [write, read, hv, hb] <;> omega
  | cons c rest ih =>
    obtain ⟨k, w⟩ := c
    simp only [wfFrom, Bool.and_eq_true, decide_eq_true_eq] at h
    obtain ⟨⟨hk, hw⟩, hr⟩ := h
    by_cases h1 : a < k
    · have hbelow : read ((k, w) :: rest) a = Config.unwrittenByte :=
        read_below (lo := k) (by simp [wfFrom, hw, hr]) h1
      by_cases hv : v = Config.unwrittenByte
      · by_cases hb : b = a
        · simp [write, h1, hv, hb, hbelow]
        · simp [write, h1, hv, hb]
      · by_cases hb : b = a
        · simp [write, h1, hv, hb, read]
        · have : ¬ a = b := fun e => hb e.symm
          simp [write, h1, hv, hb, read, this]
    · by_cases h2 : a = k
      · subst h2
        by_cases hv : v = Config.unwrittenByte
        · by_cases hb : b = a
          · subst hb
            simp [write, hv, read_below hr (Nat.lt_succ_self _)]
          · have : ¬ a = b := fun e => hb e.symm
            simp [write, hv, hb, read, this]
        · by_cases hb : b = a
          · simp [write, hv, hb, read]
          · have : ¬ a = b := fun e => hb e.symm
            simp [write, hv, hb, read, this]
      · have h3 := ih hr
        by_cases hkb : k = b
        · have : ¬ b = a := by omega
          rw [write, if_neg h1, if_neg h2]
          simp [read, hkb, this]
        · simp [write, h1, h2, read, hkb, h3]

/-- The spec lemma of a one-byte store into a canonical memory: it writes that byte and no other. -/
theorem read_write {m : Memory} (h : m.wf = true) (a b : Nat) (v : Byte) :
    read (write m a v) b = if b = a then v else read m b := read_write_from v b h

theorem read_write_same {m : Memory} (h : m.wf = true) (a : Nat) (v : Byte) : read (write m a v) a = v := by
  simp [read_write h]

theorem read_write_other {m : Memory} (h : m.wf = true) {a b : Nat} (v : Byte) (hb : b ≠ a) :
    read (write m a v) b = read m b := by
  simp [read_write h, hb]

/-- A run of stores keeps the canonical form. -/
theorem wf_writeBytes {m : Memory} (a : Nat) (bs : List Byte) (h : m.wf = true) : (writeBytes m a bs).wf = true := by
  induction bs generalizing m a with
  | nil => exact h
  | cons b rest ih => exact ih (a + 1) (wf_write a b h)

/-- The spec lemma of a run of stores: the bytes at their offsets, every other byte as before. -/
theorem read_writeBytes {m : Memory} (h : m.wf = true) (a : Nat) (bs : List Byte) (b : Nat) :
    read (writeBytes m a bs) b = if a ≤ b ∧ b < a + bs.length then bs.getD (b - a) 0#8 else read m b := by
  induction bs generalizing m a with
  | nil => simp [writeBytes]
  | cons c rest ih =>
    rw [writeBytes, ih (wf_write a c h), read_write h, List.length_cons]
    by_cases h1 : b = a
    · subst h1
      have h2 : ¬ (b + 1 ≤ b ∧ b < b + 1 + rest.length) := by omega
      have h3 : b ≤ b ∧ b < b + (rest.length + 1) := by omega
      rw [if_neg h2, if_pos rfl, if_pos h3]
      simp
    · by_cases h4 : a + 1 ≤ b ∧ b < a + 1 + rest.length
      · have h5 : a ≤ b ∧ b < a + (rest.length + 1) := by omega
        rw [if_pos h4, if_pos h5]
        have h6 : b - a = (b - (a + 1)) + 1 := by omega
        rw [h6, List.getD_cons_succ]
      · have h5 : ¬ (a ≤ b ∧ b < a + (rest.length + 1)) := by omega
        rw [if_neg h4, if_neg h1, if_neg h5]

theorem read_writeBytes_outside {m : Memory} (h : m.wf = true) {a b : Nat} {bs : List Byte}
    (hb : b < a ∨ a + bs.length ≤ b) : read (writeBytes m a bs) b = read m b := by
  rw [read_writeBytes h, if_neg (by omega)]

@[simp] theorem length_readBytes (m : Memory) (a n : Nat) : (readBytes m a n).length = n := by
  induction n generalizing a with
  | zero => rfl
  | succ n ih => simp [readBytes, ih]

/-- The spec lemma of a range read: byte `i` of the range is the memory's byte `a + i`. -/
theorem getD_readBytes (m : Memory) (a n i : Nat) (h : i < n) : (readBytes m a n).getD i 0#8 = read m (a + i) := by
  induction n generalizing a i with
  | zero => omega
  | succ n ih =>
    cases i with
    | zero => simp [readBytes]
    | succ i =>
      rw [readBytes, List.getD_cons_succ, ih (a + 1) i (by omega)]
      congr 1
      omega

theorem readBytes_add (m : Memory) (a n k : Nat) : readBytes m a (n + k) = readBytes m a n ++ readBytes m (a + n) k := by
  induction n generalizing a with
  | zero => simp [readBytes]
  | succ n ih =>
    rw [Nat.succ_add, readBytes, readBytes, ih, List.cons_append]
    congr 3
    omega

theorem readBytes_congr {m m' : Memory} {a n : Nat} (h : ∀ i, i < n → read m (a + i) = read m' (a + i)) :
    readBytes m a n = readBytes m' a n := by
  induction n generalizing a with
  | zero => rfl
  | succ n ih =>
    rw [readBytes, readBytes, show read m a = read m' a from h 0 (by omega)]
    congr 1
    refine ih fun i hi => ?_
    have := h (i + 1) (by omega)
    rwa [← Nat.add_assoc, Nat.add_right_comm] at this

/-- What a run of stores wrote reads back. -/
theorem readBytes_writeBytes {m : Memory} (h : m.wf = true) (a : Nat) (bs : List Byte) :
    readBytes (writeBytes m a bs) a bs.length = bs := by
  apply List.ext_getElem (by simp)
  intro i h1 h2
  have h3 := getD_readBytes (writeBytes m a bs) a bs.length i h2
  rw [read_writeBytes h, if_pos (by omega), Nat.add_sub_cancel_left] at h3
  rw [List.getD_eq_getElem _ _ h1, List.getD_eq_getElem _ _ h2] at h3
  exact h3

theorem wfFrom_zeroBelow {lo : Nat} {m : Memory} (n : Nat) (h : wfFrom lo m = true) : wfFrom lo (zeroBelow n m) = true := by
  induction m generalizing lo with
  | nil => rfl
  | cons c rest ih =>
    obtain ⟨k, v⟩ := c
    simp only [wfFrom, Bool.and_eq_true, decide_eq_true_eq] at h
    by_cases hk : k < n
    · simpa [zeroBelow, hk] using wfFrom_mono (ih h.2) (by omega)
    · simp [zeroBelow, hk, wfFrom, h.1.1, h.1.2, ih h.2]

/-- Zeroing keeps the canonical form. -/
theorem wf_zeroBelow {m : Memory} (n : Nat) (h : m.wf = true) : (zeroBelow n m).wf = true := wfFrom_zeroBelow n h

/-- The spec lemma of `PREV_ROW[i] <- 0` (R160): zeros below `n`, every other byte as before. -/
theorem read_zeroBelow (n : Nat) (m : Memory) (a : Nat) :
    read (zeroBelow n m) a = if a < n then 0#8 else read m a := by
  induction m with
  | nil => simp [zeroBelow, read, Config.unwrittenByte]
  | cons c rest ih =>
    obtain ⟨k, v⟩ := c
    by_cases hk : k < n
    · by_cases ha : a < n
      · simp [zeroBelow, hk, ih, ha]
      · have : ¬ k = a := by omega
        simp [zeroBelow, hk, ih, ha, read, this]
    · by_cases ha : a < n
      · have : ¬ k = a := by omega
        simp [zeroBelow, hk, ih, ha, read, this]
      · simp [zeroBelow, hk, ih, ha, read]

/-- Canonical memories with the same bytes are the same list. -/
theorem ext_of_read {lo : Nat} {m m' : Memory} (h : wfFrom lo m = true) (h' : wfFrom lo m' = true)
    (heq : ∀ a, read m a = read m' a) : m = m' := by
  induction m generalizing lo m' with
  | nil =>
    cases m' with
    | nil => rfl
    | cons c rest =>
      obtain ⟨k, v⟩ := c
      simp only [wfFrom, Bool.and_eq_true, bne_iff_ne, ne_eq, decide_eq_true_eq] at h'
      have := heq k
      simp only [read, if_true] at this
      exact absurd this.symm h'.1.2
  | cons c rest ih =>
    obtain ⟨k, v⟩ := c
    simp only [wfFrom, Bool.and_eq_true, bne_iff_ne, ne_eq, decide_eq_true_eq] at h
    cases m' with
    | nil =>
      have := heq k
      simp only [read, if_true] at this
      exact absurd this h.1.2
    | cons c' rest' =>
      obtain ⟨k', v'⟩ := c'
      simp only [wfFrom, Bool.and_eq_true, bne_iff_ne, ne_eq, decide_eq_true_eq] at h'
      have hk : k = k' := by
        rcases Nat.lt_trichotomy k k' with hlt | rfl | hgt
        · have := heq k
          have hb : read ((k', v') :: rest') k = Config.unwrittenByte :=
            read_below (lo := k') (by simp [wfFrom, h'.1.2, h'.2]) hlt
          rw [hb] at this
          simp only [read, if_true] at this
          exact absurd this h.1.2
        · rfl
        · have := heq k'
          have hb : read ((k, v) :: rest) k' = Config.unwrittenByte :=
            read_below (lo := k) (by simp [wfFrom, h.1.2, h.2]) hgt
          rw [hb] at this
          simp only [read, if_true] at this
          exact absurd this.symm h'.1.2
      subst hk
      have hv : v = v' := by simpa [read] using heq k
      subst hv
      rw [ih h.2 h'.2 fun a => ?_]
      by_cases ha : a = k
      · subst ha
        rw [read_below h.2 (Nat.lt_succ_self _), read_below h'.2 (Nat.lt_succ_self _)]
      · have hka : ¬ k = a := fun e => ha e.symm
        simpa [read, hka] using heq a

end Sys2Proof.Machine.Memory
end

