-- ==== Sys2Proof/Laws/State.lean ====
section
/-! SUPPORT. One lemma per field per named update of State, each true by rfl: what the update writes and that it leaves every
other field alone. -/

namespace Sys2Proof.Machine.State

/-! ### `raise` -/

@[simp] theorem raise_phase (e : PngError) (i0 i1 : Nat) (s : State) : (s.raise e i0 i1).phase = .error := rfl
@[simp] theorem raise_errCode (e : PngError) (i0 i1 : Nat) (s : State) : (s.raise e i0 i1).errCode = e.code := rfl
@[simp] theorem raise_errInfo0 (e : PngError) (i0 i1 : Nat) (s : State) : (s.raise e i0 i1).errInfo0 = i0 := rfl
@[simp] theorem raise_errInfo1 (e : PngError) (i0 i1 : Nat) (s : State) : (s.raise e i0 i1).errInfo1 = i1 := rfl
@[simp] theorem raise_bodyLen (e : PngError) (i0 i1 : Nat) (s : State) : (s.raise e i0 i1).bodyLen = s.bodyLen := rfl
@[simp] theorem raise_pos (e : PngError) (i0 i1 : Nat) (s : State) : (s.raise e i0 i1).pos = s.pos := rfl
@[simp] theorem raise_chStart (e : PngError) (i0 i1 : Nat) (s : State) : (s.raise e i0 i1).chStart = s.chStart := rfl
@[simp] theorem raise_len (e : PngError) (i0 i1 : Nat) (s : State) : (s.raise e i0 i1).len = s.len := rfl
@[simp] theorem raise_typ (e : PngError) (i0 i1 : Nat) (s : State) : (s.raise e i0 i1).typ = s.typ := rfl
@[simp] theorem raise_hdrValid (e : PngError) (i0 i1 : Nat) (s : State) : (s.raise e i0 i1).hdrValid = false := rfl
@[simp] theorem raise_hdrWidth (e : PngError) (i0 i1 : Nat) (s : State) : (s.raise e i0 i1).hdrWidth = s.hdrWidth := rfl
@[simp] theorem raise_hdrHeight (e : PngError) (i0 i1 : Nat) (s : State) : (s.raise e i0 i1).hdrHeight = s.hdrHeight := rfl
@[simp] theorem raise_hdrBitDepth (e : PngError) (i0 i1 : Nat) (s : State) : (s.raise e i0 i1).hdrBitDepth = s.hdrBitDepth := rfl
@[simp] theorem raise_hdrColorType (e : PngError) (i0 i1 : Nat) (s : State) : (s.raise e i0 i1).hdrColorType = s.hdrColorType := rfl
@[simp] theorem raise_hdrCompression (e : PngError) (i0 i1 : Nat) (s : State) : (s.raise e i0 i1).hdrCompression = s.hdrCompression := rfl
@[simp] theorem raise_hdrFilter (e : PngError) (i0 i1 : Nat) (s : State) : (s.raise e i0 i1).hdrFilter = s.hdrFilter := rfl
@[simp] theorem raise_hdrInterlace (e : PngError) (i0 i1 : Nat) (s : State) : (s.raise e i0 i1).hdrInterlace = s.hdrInterlace := rfl
@[simp] theorem raise_hdrPos (e : PngError) (i0 i1 : Nat) (s : State) : (s.raise e i0 i1).hdrPos = s.hdrPos := rfl
@[simp] theorem raise_ci (e : PngError) (i0 i1 : Nat) (s : State) : (s.raise e i0 i1).ci = s.ci := rfl
@[simp] theorem raise_compLen (e : PngError) (i0 i1 : Nat) (s : State) : (s.raise e i0 i1).compLen = s.compLen := rfl
@[simp] theorem raise_inflReq (e : PngError) (i0 i1 : Nat) (s : State) : (s.raise e i0 i1).inflReq = false := rfl
@[simp] theorem raise_inflLen (e : PngError) (i0 i1 : Nat) (s : State) : (s.raise e i0 i1).inflLen = s.inflLen := rfl
@[simp] theorem raise_need (e : PngError) (i0 i1 : Nat) (s : State) : (s.raise e i0 i1).need = s.need := rfl
@[simp] theorem raise_rowBytes (e : PngError) (i0 i1 : Nat) (s : State) : (s.raise e i0 i1).rowBytes = s.rowBytes := rfl
@[simp] theorem raise_row (e : PngError) (i0 i1 : Nat) (s : State) : (s.raise e i0 i1).row = s.row := rfl
@[simp] theorem raise_ft (e : PngError) (i0 i1 : Nat) (s : State) : (s.raise e i0 i1).ft = s.ft := rfl
@[simp] theorem raise_body (e : PngError) (i0 i1 : Nat) (s : State) : (s.raise e i0 i1).body = s.body := rfl
@[simp] theorem raise_chunkTable (e : PngError) (i0 i1 : Nat) (s : State) : (s.raise e i0 i1).chunkTable = s.chunkTable := rfl
@[simp] theorem raise_comp (e : PngError) (i0 i1 : Nat) (s : State) : (s.raise e i0 i1).comp = s.comp := rfl
@[simp] theorem raise_infl (e : PngError) (i0 i1 : Nat) (s : State) : (s.raise e i0 i1).infl = s.infl := rfl
@[simp] theorem raise_prevRow (e : PngError) (i0 i1 : Nat) (s : State) : (s.raise e i0 i1).prevRow = s.prevRow := rfl
@[simp] theorem raise_curRow (e : PngError) (i0 i1 : Nat) (s : State) : (s.raise e i0 i1).curRow = s.curRow := rfl
@[simp] theorem raise_grid (e : PngError) (i0 i1 : Nat) (s : State) : (s.raise e i0 i1).grid = s.grid := rfl
@[simp] theorem raise_inflAnswer (e : PngError) (i0 i1 : Nat) (s : State) : (s.raise e i0 i1).inflAnswer = s.inflAnswer := rfl
@[simp] theorem raise_hostRead (e : PngError) (i0 i1 : Nat) (s : State) : (s.raise e i0 i1).hostRead = s.hostRead := rfl
@[simp] theorem raise_freeCount (e : PngError) (i0 i1 : Nat) (s : State) : (s.raise e i0 i1).freeCount = s.freeCount := rfl
@[simp] theorem raise_collab (e : PngError) (i0 i1 : Nat) (s : State) : (s.raise e i0 i1).collab = s.collab := rfl
@[simp] theorem raise_agenda (e : PngError) (i0 i1 : Nat) (s : State) : (s.raise e i0 i1).agenda = s.agenda := rfl

/-! ### `clearDecode` -/

@[simp] theorem clearDecode_phase (s : State) : (s.clearDecode).phase = s.phase := rfl
@[simp] theorem clearDecode_errCode (s : State) : (s.clearDecode).errCode = 0#4 := rfl
@[simp] theorem clearDecode_errInfo0 (s : State) : (s.clearDecode).errInfo0 = 0 := rfl
@[simp] theorem clearDecode_errInfo1 (s : State) : (s.clearDecode).errInfo1 = 0 := rfl
@[simp] theorem clearDecode_bodyLen (s : State) : (s.clearDecode).bodyLen = s.bodyLen := rfl
@[simp] theorem clearDecode_pos (s : State) : (s.clearDecode).pos = 0 := rfl
@[simp] theorem clearDecode_chStart (s : State) : (s.clearDecode).chStart = s.chStart := rfl
@[simp] theorem clearDecode_len (s : State) : (s.clearDecode).len = s.len := rfl
@[simp] theorem clearDecode_typ (s : State) : (s.clearDecode).typ = s.typ := rfl
@[simp] theorem clearDecode_hdrValid (s : State) : (s.clearDecode).hdrValid = false := rfl
@[simp] theorem clearDecode_hdrWidth (s : State) : (s.clearDecode).hdrWidth = 0#32 := rfl
@[simp] theorem clearDecode_hdrHeight (s : State) : (s.clearDecode).hdrHeight = 0#32 := rfl
@[simp] theorem clearDecode_hdrBitDepth (s : State) : (s.clearDecode).hdrBitDepth = 0#8 := rfl
@[simp] theorem clearDecode_hdrColorType (s : State) : (s.clearDecode).hdrColorType = 0#8 := rfl
@[simp] theorem clearDecode_hdrCompression (s : State) : (s.clearDecode).hdrCompression = 0#8 := rfl
@[simp] theorem clearDecode_hdrFilter (s : State) : (s.clearDecode).hdrFilter = 0#8 := rfl
@[simp] theorem clearDecode_hdrInterlace (s : State) : (s.clearDecode).hdrInterlace = 0#8 := rfl
@[simp] theorem clearDecode_hdrPos (s : State) : (s.clearDecode).hdrPos = s.hdrPos := rfl
@[simp] theorem clearDecode_ci (s : State) : (s.clearDecode).ci = 0 := rfl
@[simp] theorem clearDecode_compLen (s : State) : (s.clearDecode).compLen = 0 := rfl
@[simp] theorem clearDecode_inflReq (s : State) : (s.clearDecode).inflReq = false := rfl
@[simp] theorem clearDecode_inflLen (s : State) : (s.clearDecode).inflLen = 0 := rfl
@[simp] theorem clearDecode_need (s : State) : (s.clearDecode).need = 0#66 := rfl
@[simp] theorem clearDecode_rowBytes (s : State) : (s.clearDecode).rowBytes = 0#34 := rfl
@[simp] theorem clearDecode_row (s : State) : (s.clearDecode).row = 0#33 := rfl
@[simp] theorem clearDecode_ft (s : State) : (s.clearDecode).ft = s.ft := rfl
@[simp] theorem clearDecode_body (s : State) : (s.clearDecode).body = s.body := rfl
@[simp] theorem clearDecode_chunkTable (s : State) : (s.clearDecode).chunkTable = [] := rfl
@[simp] theorem clearDecode_comp (s : State) : (s.clearDecode).comp = s.comp := rfl
@[simp] theorem clearDecode_infl (s : State) : (s.clearDecode).infl = s.infl := rfl
@[simp] theorem clearDecode_prevRow (s : State) : (s.clearDecode).prevRow = s.prevRow := rfl
@[simp] theorem clearDecode_curRow (s : State) : (s.clearDecode).curRow = s.curRow := rfl
@[simp] theorem clearDecode_grid (s : State) : (s.clearDecode).grid = s.grid := rfl
@[simp] theorem clearDecode_inflAnswer (s : State) : (s.clearDecode).inflAnswer = s.inflAnswer := rfl
@[simp] theorem clearDecode_hostRead (s : State) : (s.clearDecode).hostRead = s.hostRead := rfl
@[simp] theorem clearDecode_freeCount (s : State) : (s.clearDecode).freeCount = s.freeCount := rfl
@[simp] theorem clearDecode_collab (s : State) : (s.clearDecode).collab = s.collab := rfl
@[simp] theorem clearDecode_agenda (s : State) : (s.clearDecode).agenda = s.agenda := rfl

/-! ### `appendChunk` -/

@[simp] theorem appendChunk_phase (s : State) : (s.appendChunk).phase = s.phase := rfl
@[simp] theorem appendChunk_errCode (s : State) : (s.appendChunk).errCode = s.errCode := rfl
@[simp] theorem appendChunk_errInfo0 (s : State) : (s.appendChunk).errInfo0 = s.errInfo0 := rfl
@[simp] theorem appendChunk_errInfo1 (s : State) : (s.appendChunk).errInfo1 = s.errInfo1 := rfl
@[simp] theorem appendChunk_bodyLen (s : State) : (s.appendChunk).bodyLen = s.bodyLen := rfl
@[simp] theorem appendChunk_pos (s : State) : (s.appendChunk).pos = s.pos + s.len.toNat + 4 := rfl
@[simp] theorem appendChunk_chStart (s : State) : (s.appendChunk).chStart = s.chStart := rfl
@[simp] theorem appendChunk_len (s : State) : (s.appendChunk).len = s.len := rfl
@[simp] theorem appendChunk_typ (s : State) : (s.appendChunk).typ = s.typ := rfl
@[simp] theorem appendChunk_hdrValid (s : State) : (s.appendChunk).hdrValid = s.hdrValid := rfl
@[simp] theorem appendChunk_hdrWidth (s : State) : (s.appendChunk).hdrWidth = s.hdrWidth := rfl
@[simp] theorem appendChunk_hdrHeight (s : State) : (s.appendChunk).hdrHeight = s.hdrHeight := rfl
@[simp] theorem appendChunk_hdrBitDepth (s : State) : (s.appendChunk).hdrBitDepth = s.hdrBitDepth := rfl
@[simp] theorem appendChunk_hdrColorType (s : State) : (s.appendChunk).hdrColorType = s.hdrColorType := rfl
@[simp] theorem appendChunk_hdrCompression (s : State) : (s.appendChunk).hdrCompression = s.hdrCompression := rfl
@[simp] theorem appendChunk_hdrFilter (s : State) : (s.appendChunk).hdrFilter = s.hdrFilter := rfl
@[simp] theorem appendChunk_hdrInterlace (s : State) : (s.appendChunk).hdrInterlace = s.hdrInterlace := rfl
@[simp] theorem appendChunk_hdrPos (s : State) : (s.appendChunk).hdrPos = s.hdrPos := rfl
@[simp] theorem appendChunk_ci (s : State) : (s.appendChunk).ci = s.ci := rfl
@[simp] theorem appendChunk_compLen (s : State) : (s.appendChunk).compLen = s.compLen := rfl
@[simp] theorem appendChunk_inflReq (s : State) : (s.appendChunk).inflReq = s.inflReq := rfl
@[simp] theorem appendChunk_inflLen (s : State) : (s.appendChunk).inflLen = s.inflLen := rfl
@[simp] theorem appendChunk_need (s : State) : (s.appendChunk).need = s.need := rfl
@[simp] theorem appendChunk_rowBytes (s : State) : (s.appendChunk).rowBytes = s.rowBytes := rfl
@[simp] theorem appendChunk_row (s : State) : (s.appendChunk).row = s.row := rfl
@[simp] theorem appendChunk_ft (s : State) : (s.appendChunk).ft = s.ft := rfl
@[simp] theorem appendChunk_body (s : State) : (s.appendChunk).body = s.body := rfl
@[simp] theorem appendChunk_chunkTable (s : State) : (s.appendChunk).chunkTable = s.chunkTable ++ [⟨s.typ, s.pos, s.len⟩] := rfl
@[simp] theorem appendChunk_comp (s : State) : (s.appendChunk).comp = s.comp := rfl
@[simp] theorem appendChunk_infl (s : State) : (s.appendChunk).infl = s.infl := rfl
@[simp] theorem appendChunk_prevRow (s : State) : (s.appendChunk).prevRow = s.prevRow := rfl
@[simp] theorem appendChunk_curRow (s : State) : (s.appendChunk).curRow = s.curRow := rfl
@[simp] theorem appendChunk_grid (s : State) : (s.appendChunk).grid = s.grid := rfl
@[simp] theorem appendChunk_inflAnswer (s : State) : (s.appendChunk).inflAnswer = s.inflAnswer := rfl
@[simp] theorem appendChunk_hostRead (s : State) : (s.appendChunk).hostRead = s.hostRead := rfl
@[simp] theorem appendChunk_freeCount (s : State) : (s.appendChunk).freeCount = s.freeCount := rfl
@[simp] theorem appendChunk_collab (s : State) : (s.appendChunk).collab = s.collab := rfl
@[simp] theorem appendChunk_agenda (s : State) : (s.appendChunk).agenda = s.agenda := rfl

/-! ### `reconstructRow` -/

@[simp] theorem reconstructRow_phase (ft : Byte) (pred : Byte → Byte → Byte → Byte) (s : State) : (reconstructRow ft pred s).phase = s.phase := rfl
@[simp] theorem reconstructRow_errCode (ft : Byte) (pred : Byte → Byte → Byte → Byte) (s : State) : (reconstructRow ft pred s).errCode = s.errCode := rfl
@[simp] theorem reconstructRow_errInfo0 (ft : Byte) (pred : Byte → Byte → Byte → Byte) (s : State) : (reconstructRow ft pred s).errInfo0 = s.errInfo0 := rfl
@[simp] theorem reconstructRow_errInfo1 (ft : Byte) (pred : Byte → Byte → Byte → Byte) (s : State) : (reconstructRow ft pred s).errInfo1 = s.errInfo1 := rfl
@[simp] theorem reconstructRow_bodyLen (ft : Byte) (pred : Byte → Byte → Byte → Byte) (s : State) : (reconstructRow ft pred s).bodyLen = s.bodyLen := rfl
@[simp] theorem reconstructRow_pos (ft : Byte) (pred : Byte → Byte → Byte → Byte) (s : State) : (reconstructRow ft pred s).pos = s.pos := rfl
@[simp] theorem reconstructRow_chStart (ft : Byte) (pred : Byte → Byte → Byte → Byte) (s : State) : (reconstructRow ft pred s).chStart = s.chStart := rfl
@[simp] theorem reconstructRow_len (ft : Byte) (pred : Byte → Byte → Byte → Byte) (s : State) : (reconstructRow ft pred s).len = s.len := rfl
@[simp] theorem reconstructRow_typ (ft : Byte) (pred : Byte → Byte → Byte → Byte) (s : State) : (reconstructRow ft pred s).typ = s.typ := rfl
@[simp] theorem reconstructRow_hdrValid (ft : Byte) (pred : Byte → Byte → Byte → Byte) (s : State) : (reconstructRow ft pred s).hdrValid = s.hdrValid := rfl
@[simp] theorem reconstructRow_hdrWidth (ft : Byte) (pred : Byte → Byte → Byte → Byte) (s : State) : (reconstructRow ft pred s).hdrWidth = s.hdrWidth := rfl
@[simp] theorem reconstructRow_hdrHeight (ft : Byte) (pred : Byte → Byte → Byte → Byte) (s : State) : (reconstructRow ft pred s).hdrHeight = s.hdrHeight := rfl
@[simp] theorem reconstructRow_hdrBitDepth (ft : Byte) (pred : Byte → Byte → Byte → Byte) (s : State) : (reconstructRow ft pred s).hdrBitDepth = s.hdrBitDepth := rfl
@[simp] theorem reconstructRow_hdrColorType (ft : Byte) (pred : Byte → Byte → Byte → Byte) (s : State) : (reconstructRow ft pred s).hdrColorType = s.hdrColorType := rfl
@[simp] theorem reconstructRow_hdrCompression (ft : Byte) (pred : Byte → Byte → Byte → Byte) (s : State) : (reconstructRow ft pred s).hdrCompression = s.hdrCompression := rfl
@[simp] theorem reconstructRow_hdrFilter (ft : Byte) (pred : Byte → Byte → Byte → Byte) (s : State) : (reconstructRow ft pred s).hdrFilter = s.hdrFilter := rfl
@[simp] theorem reconstructRow_hdrInterlace (ft : Byte) (pred : Byte → Byte → Byte → Byte) (s : State) : (reconstructRow ft pred s).hdrInterlace = s.hdrInterlace := rfl
@[simp] theorem reconstructRow_hdrPos (ft : Byte) (pred : Byte → Byte → Byte → Byte) (s : State) : (reconstructRow ft pred s).hdrPos = s.hdrPos := rfl
@[simp] theorem reconstructRow_ci (ft : Byte) (pred : Byte → Byte → Byte → Byte) (s : State) : (reconstructRow ft pred s).ci = s.ci := rfl
@[simp] theorem reconstructRow_compLen (ft : Byte) (pred : Byte → Byte → Byte → Byte) (s : State) : (reconstructRow ft pred s).compLen = s.compLen := rfl
@[simp] theorem reconstructRow_inflReq (ft : Byte) (pred : Byte → Byte → Byte → Byte) (s : State) : (reconstructRow ft pred s).inflReq = s.inflReq := rfl
@[simp] theorem reconstructRow_inflLen (ft : Byte) (pred : Byte → Byte → Byte → Byte) (s : State) : (reconstructRow ft pred s).inflLen = s.inflLen := rfl
@[simp] theorem reconstructRow_need (ft : Byte) (pred : Byte → Byte → Byte → Byte) (s : State) : (reconstructRow ft pred s).need = s.need := rfl
@[simp] theorem reconstructRow_rowBytes (ft : Byte) (pred : Byte → Byte → Byte → Byte) (s : State) : (reconstructRow ft pred s).rowBytes = s.rowBytes := rfl
@[simp] theorem reconstructRow_row (ft : Byte) (pred : Byte → Byte → Byte → Byte) (s : State) : (reconstructRow ft pred s).row = s.row + 1#33 := rfl
@[simp] theorem reconstructRow_ft (ft : Byte) (pred : Byte → Byte → Byte → Byte) (s : State) : (reconstructRow ft pred s).ft = ft := rfl
@[simp] theorem reconstructRow_body (ft : Byte) (pred : Byte → Byte → Byte → Byte) (s : State) : (reconstructRow ft pred s).body = s.body := rfl
@[simp] theorem reconstructRow_chunkTable (ft : Byte) (pred : Byte → Byte → Byte → Byte) (s : State) : (reconstructRow ft pred s).chunkTable = s.chunkTable := rfl
@[simp] theorem reconstructRow_comp (ft : Byte) (pred : Byte → Byte → Byte → Byte) (s : State) : (reconstructRow ft pred s).comp = s.comp := rfl
@[simp] theorem reconstructRow_infl (ft : Byte) (pred : Byte → Byte → Byte → Byte) (s : State) : (reconstructRow ft pred s).infl = s.infl := rfl
@[simp] theorem reconstructRow_prevRow (ft : Byte) (pred : Byte → Byte → Byte → Byte) (s : State) : (reconstructRow ft pred s).prevRow = 
      Memory.writeBytes s.prevRow 0
        (Memory.readBytes (rowLoop pred s.infl s.prevRow s.rowOffset s.rowBytes.toNat s.curRow) 0 s.rowBytes.toNat) := rfl
@[simp] theorem reconstructRow_curRow (ft : Byte) (pred : Byte → Byte → Byte → Byte) (s : State) : (reconstructRow ft pred s).curRow = rowLoop pred s.infl s.prevRow s.rowOffset s.rowBytes.toNat s.curRow := rfl
@[simp] theorem reconstructRow_grid (ft : Byte) (pred : Byte → Byte → Byte → Byte) (s : State) : (reconstructRow ft pred s).grid = 
      Memory.writeBytes s.grid (s.row.toNat * s.rowBytes.toNat)
        (Memory.readBytes (rowLoop pred s.infl s.prevRow s.rowOffset s.rowBytes.toNat s.curRow) 0 s.rowBytes.toNat) := rfl
@[simp] theorem reconstructRow_inflAnswer (ft : Byte) (pred : Byte → Byte → Byte → Byte) (s : State) : (reconstructRow ft pred s).inflAnswer = s.inflAnswer := rfl
@[simp] theorem reconstructRow_hostRead (ft : Byte) (pred : Byte → Byte → Byte → Byte) (s : State) : (reconstructRow ft pred s).hostRead = s.hostRead := rfl
@[simp] theorem reconstructRow_freeCount (ft : Byte) (pred : Byte → Byte → Byte → Byte) (s : State) : (reconstructRow ft pred s).freeCount = s.freeCount := rfl
@[simp] theorem reconstructRow_collab (ft : Byte) (pred : Byte → Byte → Byte → Byte) (s : State) : (reconstructRow ft pred s).collab = s.collab := rfl
@[simp] theorem reconstructRow_agenda (ft : Byte) (pred : Byte → Byte → Byte → Byte) (s : State) : (reconstructRow ft pred s).agenda = s.agenda := rfl

/-! ### `answerHost` -/

@[simp] theorem answerHost_phase (s : State) (v : Nat) : (s.answerHost v).phase = s.phase := rfl
@[simp] theorem answerHost_errCode (s : State) (v : Nat) : (s.answerHost v).errCode = s.errCode := rfl
@[simp] theorem answerHost_errInfo0 (s : State) (v : Nat) : (s.answerHost v).errInfo0 = s.errInfo0 := rfl
@[simp] theorem answerHost_errInfo1 (s : State) (v : Nat) : (s.answerHost v).errInfo1 = s.errInfo1 := rfl
@[simp] theorem answerHost_bodyLen (s : State) (v : Nat) : (s.answerHost v).bodyLen = s.bodyLen := rfl
@[simp] theorem answerHost_pos (s : State) (v : Nat) : (s.answerHost v).pos = s.pos := rfl
@[simp] theorem answerHost_chStart (s : State) (v : Nat) : (s.answerHost v).chStart = s.chStart := rfl
@[simp] theorem answerHost_len (s : State) (v : Nat) : (s.answerHost v).len = s.len := rfl
@[simp] theorem answerHost_typ (s : State) (v : Nat) : (s.answerHost v).typ = s.typ := rfl
@[simp] theorem answerHost_hdrValid (s : State) (v : Nat) : (s.answerHost v).hdrValid = s.hdrValid := rfl
@[simp] theorem answerHost_hdrWidth (s : State) (v : Nat) : (s.answerHost v).hdrWidth = s.hdrWidth := rfl
@[simp] theorem answerHost_hdrHeight (s : State) (v : Nat) : (s.answerHost v).hdrHeight = s.hdrHeight := rfl
@[simp] theorem answerHost_hdrBitDepth (s : State) (v : Nat) : (s.answerHost v).hdrBitDepth = s.hdrBitDepth := rfl
@[simp] theorem answerHost_hdrColorType (s : State) (v : Nat) : (s.answerHost v).hdrColorType = s.hdrColorType := rfl
@[simp] theorem answerHost_hdrCompression (s : State) (v : Nat) : (s.answerHost v).hdrCompression = s.hdrCompression := rfl
@[simp] theorem answerHost_hdrFilter (s : State) (v : Nat) : (s.answerHost v).hdrFilter = s.hdrFilter := rfl
@[simp] theorem answerHost_hdrInterlace (s : State) (v : Nat) : (s.answerHost v).hdrInterlace = s.hdrInterlace := rfl
@[simp] theorem answerHost_hdrPos (s : State) (v : Nat) : (s.answerHost v).hdrPos = s.hdrPos := rfl
@[simp] theorem answerHost_ci (s : State) (v : Nat) : (s.answerHost v).ci = s.ci := rfl
@[simp] theorem answerHost_compLen (s : State) (v : Nat) : (s.answerHost v).compLen = s.compLen := rfl
@[simp] theorem answerHost_inflReq (s : State) (v : Nat) : (s.answerHost v).inflReq = s.inflReq := rfl
@[simp] theorem answerHost_inflLen (s : State) (v : Nat) : (s.answerHost v).inflLen = s.inflLen := rfl
@[simp] theorem answerHost_need (s : State) (v : Nat) : (s.answerHost v).need = s.need := rfl
@[simp] theorem answerHost_rowBytes (s : State) (v : Nat) : (s.answerHost v).rowBytes = s.rowBytes := rfl
@[simp] theorem answerHost_row (s : State) (v : Nat) : (s.answerHost v).row = s.row := rfl
@[simp] theorem answerHost_ft (s : State) (v : Nat) : (s.answerHost v).ft = s.ft := rfl
@[simp] theorem answerHost_body (s : State) (v : Nat) : (s.answerHost v).body = s.body := rfl
@[simp] theorem answerHost_chunkTable (s : State) (v : Nat) : (s.answerHost v).chunkTable = s.chunkTable := rfl
@[simp] theorem answerHost_comp (s : State) (v : Nat) : (s.answerHost v).comp = s.comp := rfl
@[simp] theorem answerHost_infl (s : State) (v : Nat) : (s.answerHost v).infl = s.infl := rfl
@[simp] theorem answerHost_prevRow (s : State) (v : Nat) : (s.answerHost v).prevRow = s.prevRow := rfl
@[simp] theorem answerHost_curRow (s : State) (v : Nat) : (s.answerHost v).curRow = s.curRow := rfl
@[simp] theorem answerHost_grid (s : State) (v : Nat) : (s.answerHost v).grid = s.grid := rfl
@[simp] theorem answerHost_inflAnswer (s : State) (v : Nat) : (s.answerHost v).inflAnswer = s.inflAnswer := rfl
@[simp] theorem answerHost_hostRead (s : State) (v : Nat) : (s.answerHost v).hostRead = v := rfl
@[simp] theorem answerHost_freeCount (s : State) (v : Nat) : (s.answerHost v).freeCount = s.freeCount + 1 := rfl
@[simp] theorem answerHost_collab (s : State) (v : Nat) : (s.answerHost v).collab = s.collab := rfl
@[simp] theorem answerHost_agenda (s : State) (v : Nat) : (s.answerHost v).agenda = s.agenda := rfl

/-! ### `deliver` -/

@[simp] theorem deliver_phase (s : State) (a : InflateAnswer) : (s.deliver a).phase = s.phase := by cases a <;> rfl
@[simp] theorem deliver_errCode (s : State) (a : InflateAnswer) : (s.deliver a).errCode = s.errCode := by cases a <;> rfl
@[simp] theorem deliver_errInfo0 (s : State) (a : InflateAnswer) : (s.deliver a).errInfo0 = s.errInfo0 := by cases a <;> rfl
@[simp] theorem deliver_errInfo1 (s : State) (a : InflateAnswer) : (s.deliver a).errInfo1 = s.errInfo1 := by cases a <;> rfl
@[simp] theorem deliver_bodyLen (s : State) (a : InflateAnswer) : (s.deliver a).bodyLen = s.bodyLen := by cases a <;> rfl
@[simp] theorem deliver_pos (s : State) (a : InflateAnswer) : (s.deliver a).pos = s.pos := by cases a <;> rfl
@[simp] theorem deliver_chStart (s : State) (a : InflateAnswer) : (s.deliver a).chStart = s.chStart := by cases a <;> rfl
@[simp] theorem deliver_len (s : State) (a : InflateAnswer) : (s.deliver a).len = s.len := by cases a <;> rfl
@[simp] theorem deliver_typ (s : State) (a : InflateAnswer) : (s.deliver a).typ = s.typ := by cases a <;> rfl
@[simp] theorem deliver_hdrValid (s : State) (a : InflateAnswer) : (s.deliver a).hdrValid = s.hdrValid := by cases a <;> rfl
@[simp] theorem deliver_hdrWidth (s : State) (a : InflateAnswer) : (s.deliver a).hdrWidth = s.hdrWidth := by cases a <;> rfl
@[simp] theorem deliver_hdrHeight (s : State) (a : InflateAnswer) : (s.deliver a).hdrHeight = s.hdrHeight := by cases a <;> rfl
@[simp] theorem deliver_hdrBitDepth (s : State) (a : InflateAnswer) : (s.deliver a).hdrBitDepth = s.hdrBitDepth := by cases a <;> rfl
@[simp] theorem deliver_hdrColorType (s : State) (a : InflateAnswer) : (s.deliver a).hdrColorType = s.hdrColorType := by cases a <;> rfl
@[simp] theorem deliver_hdrCompression (s : State) (a : InflateAnswer) : (s.deliver a).hdrCompression = s.hdrCompression := by cases a <;> rfl
@[simp] theorem deliver_hdrFilter (s : State) (a : InflateAnswer) : (s.deliver a).hdrFilter = s.hdrFilter := by cases a <;> rfl
@[simp] theorem deliver_hdrInterlace (s : State) (a : InflateAnswer) : (s.deliver a).hdrInterlace = s.hdrInterlace := by cases a <;> rfl
@[simp] theorem deliver_hdrPos (s : State) (a : InflateAnswer) : (s.deliver a).hdrPos = s.hdrPos := by cases a <;> rfl
@[simp] theorem deliver_ci (s : State) (a : InflateAnswer) : (s.deliver a).ci = s.ci := by cases a <;> rfl
@[simp] theorem deliver_compLen (s : State) (a : InflateAnswer) : (s.deliver a).compLen = s.compLen := by cases a <;> rfl
@[simp] theorem deliver_inflReq (s : State) (a : InflateAnswer) : (s.deliver a).inflReq = s.inflReq := by cases a <;> rfl
@[simp] theorem deliver_need (s : State) (a : InflateAnswer) : (s.deliver a).need = s.need := by cases a <;> rfl
@[simp] theorem deliver_rowBytes (s : State) (a : InflateAnswer) : (s.deliver a).rowBytes = s.rowBytes := by cases a <;> rfl
@[simp] theorem deliver_row (s : State) (a : InflateAnswer) : (s.deliver a).row = s.row := by cases a <;> rfl
@[simp] theorem deliver_ft (s : State) (a : InflateAnswer) : (s.deliver a).ft = s.ft := by cases a <;> rfl
@[simp] theorem deliver_body (s : State) (a : InflateAnswer) : (s.deliver a).body = s.body := by cases a <;> rfl
@[simp] theorem deliver_chunkTable (s : State) (a : InflateAnswer) : (s.deliver a).chunkTable = s.chunkTable := by cases a <;> rfl
@[simp] theorem deliver_comp (s : State) (a : InflateAnswer) : (s.deliver a).comp = s.comp := by cases a <;> rfl
@[simp] theorem deliver_prevRow (s : State) (a : InflateAnswer) : (s.deliver a).prevRow = s.prevRow := by cases a <;> rfl
@[simp] theorem deliver_curRow (s : State) (a : InflateAnswer) : (s.deliver a).curRow = s.curRow := by cases a <;> rfl
@[simp] theorem deliver_grid (s : State) (a : InflateAnswer) : (s.deliver a).grid = s.grid := by cases a <;> rfl
@[simp] theorem deliver_hostRead (s : State) (a : InflateAnswer) : (s.deliver a).hostRead = s.hostRead := by cases a <;> rfl
@[simp] theorem deliver_freeCount (s : State) (a : InflateAnswer) : (s.deliver a).freeCount = s.freeCount := by cases a <;> rfl
@[simp] theorem deliver_collab (s : State) (a : InflateAnswer) : (s.deliver a).collab = s.collab := by cases a <;> rfl
@[simp] theorem deliver_agenda (s : State) (a : InflateAnswer) : (s.deliver a).agenda = s.agenda := by cases a <;> rfl
@[simp] theorem deliver_ok_infl (s : State) (bytes : List Byte) : (s.deliver (.ok bytes)).infl = Memory.writeBytes s.infl 0 bytes := rfl
@[simp] theorem deliver_ok_inflLen (s : State) (bytes : List Byte) : (s.deliver (.ok bytes)).inflLen = bytes.length := rfl
@[simp] theorem deliver_ok_inflAnswer (s : State) (bytes : List Byte) : (s.deliver (.ok bytes)).inflAnswer = some .ok := rfl
@[simp] theorem deliver_fail_infl (s : State) : (s.deliver .fail).infl = s.infl := rfl
@[simp] theorem deliver_fail_inflLen (s : State) : (s.deliver .fail).inflLen = s.inflLen := rfl
@[simp] theorem deliver_fail_inflAnswer (s : State) : (s.deliver .fail).inflAnswer = some .fail := rfl

/-! ### What a host read is given -/

/-- While not busy and with no error recorded the host reads the register map. -/
theorem hostReadReg_of_not_inFlux {s : State} (h : s.inFlux = false) (i : BitVec 5) : s.hostReadReg i = s.readReg i := by
  simp [hostReadReg, h]

/-- The indices whose registers are results, controls or errors read the register map in every phase. -/
theorem hostReadReg_of_index (s : State) {i : BitVec 5} (h : i.toNat < 6 ∨ 15 < i.toNat) : s.hostReadReg i = s.readReg i := by
  unfold hostReadReg
  rw [if_neg (by simp; omega), if_neg (by simp; omega), if_neg (by simp; omega)]

theorem free_lt (s : State) (bits : Nat) : s.free bits < 2 ^ bits := Nat.mod_lt _ (Nat.two_pow_pos bits)

end Sys2Proof.Machine.State
end

