-- ==== Sys2Proof/Laws/Ops.lean ====
section
/-! SUPPORT. One spec lemma per shared operation: the cursor, the framing of a record, the header's extraction, and what each
micro-operation can answer. -/

namespace Sys2Proof.Machine

/-! ### Byte order -/

/-- R50: the first byte is the most significant. -/
theorem be32_toNat (b0 b1 b2 b3 : Byte) :
    (be32 b0 b1 b2 b3).toNat = b0.toNat * 2 ^ 24 + b1.toNat * 2 ^ 16 + b2.toNat * 2 ^ 8 + b3.toNat := by
  simp only [be32, BitVec.toNat_append]
  rw [← Nat.shiftLeft_add_eq_or_of_lt b3.isLt, ← Nat.shiftLeft_add_eq_or_of_lt b2.isLt,
    ← Nat.shiftLeft_add_eq_or_of_lt b1.isLt]
  simp only [Nat.shiftLeft_eq]
  omega

/-- R112 (3): re-serialising gives the four bytes back. -/
theorem beBytes_be32 (b0 b1 b2 b3 : Byte) : beBytes (be32 b0 b1 b2 b3) = [b0, b1, b2, b3] := by
  have h0 := b0.isLt
  have h1 := b1.isLt
  have h2 := b2.isLt
  have h3 := b3.isLt
  unfold beBytes
  simp only [List.cons.injEq, and_true]
  refine ⟨?_, ?_, ?_, ?_⟩ <;> apply BitVec.eq_of_toNat_eq <;>
    rw [BitVec.extractLsb'_toNat, be32_toNat, Nat.shiftRight_eq_div_pow] <;> omega

/-- A u32 is the number its four bytes spell. -/
theorem be32_beBytes (v : U32) :
    be32 (v.extractLsb' 24 8) (v.extractLsb' 16 8) (v.extractLsb' 8 8) (v.extractLsb' 0 8) = v := by
  apply BitVec.eq_of_toNat_eq
  have := v.isLt
  simp only [be32_toNat, BitVec.extractLsb'_toNat, Nat.shiftRight_eq_div_pow]
  omega

/-! ### The cursor -/

theorem cursorU32_ok {m : Memory} {n pos : Nat} (h : 4 ≤ n - pos) :
    cursorU32 m n pos = .ok (Memory.read4 m pos, pos + 4) := by
  simp [cursorU32, Nat.not_lt.mpr h]

theorem cursorU32_error {m : Memory} {n pos : Nat} (h : n - pos < 4) :
    cursorU32 m n pos = .error (outOfBoundsAt pos (n - pos)) := by
  simp [cursorU32, h]

theorem cursorU8_ok {m : Memory} {n pos : Nat} (h : 1 ≤ n - pos) :
    cursorU8 m n pos = .ok (Memory.read m pos, pos + 1) := by
  simp [cursorU8, Nat.not_lt.mpr h]

theorem cursorU8_error {m : Memory} {n pos : Nat} (h : n - pos < 1) :
    cursorU8 m n pos = .error (outOfBoundsAt pos 0) := by
  simp [cursorU8, h]

theorem loadU32_ok {s : State} {dst : U32Dst} {m : ByteMem} {n pos : Nat} (h : 4 ≤ n - pos) :
    s.loadU32 dst m n pos = .ok (s.keepU32 dst (Memory.read4 (s.mem m) pos) (pos + 4)) := by
  simp [State.loadU32, cursorU32_ok h, Except.map]

theorem loadU32_error {s : State} {dst : U32Dst} {m : ByteMem} {n pos : Nat} (h : n - pos < 4) :
    s.loadU32 dst m n pos = .error (outOfBoundsAt pos (n - pos)) := by
  simp [State.loadU32, cursorU32_error h, Except.map]

theorem loadU8_ok {s : State} {dst : U8Dst} {m : ByteMem} {n pos : Nat} (h : 1 ≤ n - pos) :
    s.loadU8 dst m n pos = .ok (s.keepU8 dst (Memory.read (s.mem m) pos) (pos + 1)) := by
  simp [State.loadU8, cursorU8_ok h, Except.map]

theorem loadU8_error {s : State} {dst : U8Dst} {m : ByteMem} {n pos : Nat} (h : n - pos < 1) :
    s.loadU8 dst m n pos = .error (outOfBoundsAt pos 0) := by
  simp [State.loadU8, cursorU8_error h, Except.map]

@[simp] theorem settle_ok (s t : State) : s.settle (.ok t) = .next t := rfl

@[simp] theorem settle_error (s : State) (f : Failure) : s.settle (.error f) = .next (s.raise f.err f.info0 f.info1) := rfl

/-! ### Framing -/

/-- The state after framing the record of length `len` and type `typ` at `POS`: the writes of R121, actions 1 to 4. -/
def State.framed (s : State) (typ len : U32) : State :=
  { s with
    chStart := s.pos
    len := len
    typ := typ
    chunkTable := s.chunkTable ++ [⟨typ, s.pos + 8, len⟩]
    pos := s.pos + 8 + len.toNat + 4 }

theorem frameChunk_eq (typ len : U32) (s : State) :
    frameChunk typ len s =
      if len.toNat + 12 > s.bodyLen - s.pos then .next (s.raise .truncatedChunk s.pos len.toNat)
      else .next (s.framed typ len) := by
  by_cases h : len.toNat + 12 > s.bodyLen - s.pos
  · simp [frameChunk, State.recordExceeds, Config.frameOverhead, h]
  · simp [frameChunk, State.recordExceeds, Config.frameOverhead, h, State.appendChunk, State.framed]

/-- The spec lemma of one framing step (R122, R123, R124). -/
theorem frameRecord_eq (s : State) :
    s.frameRecord =
      if s.bodyLen - s.pos < 4 then .error (outOfBoundsAt s.pos (s.bodyLen - s.pos))
      else if (Memory.read4 s.body s.pos).toNat + 12 > s.bodyLen - s.pos then
        .error ⟨.truncatedChunk, s.pos, (Memory.read4 s.body s.pos).toNat⟩
      else .ok (s.framed (Memory.read4 s.body (s.pos + 4)) (Memory.read4 s.body s.pos)) := by
  by_cases h : s.bodyLen - s.pos < 4
  · rw [if_pos h]
    simp [State.frameRecord, loadU32_error h, bind, Except.bind]
  · rw [if_neg h]
    by_cases h2 : (Memory.read4 s.body s.pos).toNat + 12 > s.bodyLen - s.pos
    · rw [if_pos h2]
      simp [State.frameRecord, loadU32_ok (Nat.not_lt.mp h), bind, Except.bind, State.recordExceeds, State.keepU32, State.mem,
        Config.frameOverhead, h2]
    · rw [if_neg h2]
      have h3 : 4 ≤ s.bodyLen - (s.pos + 4) := by omega
      simp [State.frameRecord, loadU32_ok (Nat.not_lt.mp h), bind, Except.bind, State.recordExceeds, State.keepU32, State.mem,
        Config.frameOverhead, h2, loadU32_ok h3, State.appendChunk, State.framed, Nat.add_assoc]

/-! ### The header -/

/-- The state after the seven reads of R143 from the payload at `off`. -/
def State.withHeader (s : State) (off : Nat) : State :=
  { s with
    hdrWidth := Memory.read4 s.body off
    hdrHeight := Memory.read4 s.body (off + 4)
    hdrBitDepth := Memory.read s.body (off + 8)
    hdrColorType := Memory.read s.body (off + 9)
    hdrCompression := Memory.read s.body (off + 10)
    hdrFilter := Memory.read s.body (off + 11)
    hdrInterlace := Memory.read s.body (off + 12)
    hdrPos := off + 13 }

theorem loadU32_bind {α : Type} {s : State} {dst : U32Dst} {m : ByteMem} {n pos : Nat} (f : State → Except Failure α)
    (h : pos + 4 ≤ n) :
    (s.loadU32 dst m n pos >>= f) = f (s.keepU32 dst (Memory.read4 (s.mem m) pos) (pos + 4)) := by
  rw [loadU32_ok (by omega)]
  rfl

theorem loadU8_bind {α : Type} {s : State} {dst : U8Dst} {m : ByteMem} {n pos : Nat} (f : State → Except Failure α)
    (h : pos + 1 ≤ n) :
    (s.loadU8 dst m n pos >>= f) = f (s.keepU8 dst (Memory.read (s.mem m) pos) (pos + 1)) := by
  rw [loadU8_ok (by omega)]
  rfl

/-- None of the seven reads can fail (R143). -/
theorem loadHeader_eq (s : State) (off : Nat) : s.loadHeader off = .ok (s.withHeader off) := by
  cases s
  simp only [State.loadHeader, Config.ihdrLen]
  rw [loadU32_bind _ (by omega)]
  simp only [State.keepU32, State.mem]
  rw [loadU32_bind _ (by omega)]
  simp only [State.keepU32, State.mem]
  rw [loadU8_bind _ (by omega)]
  simp only [State.keepU8, State.mem]
  rw [loadU8_bind _ (by omega)]
  simp only [State.keepU8, State.mem]
  rw [loadU8_bind _ (by omega)]
  simp only [State.keepU8, State.mem]
  rw [loadU8_bind _ (by omega)]
  simp only [State.keepU8, State.mem]
  rw [loadU8_ok (by omega)]
  simp only [State.keepU8, State.mem, State.withHeader, Nat.add_assoc, Nat.reduceAdd]

theorem parseHeader_eq (len : U32) (off : Nat) (s : State) :
    parseHeader len off s =
      if len.toNat ≠ 13 then .next (s.raise .invalidHeader len.toNat 0)
      else .next { s.withHeader off with hdrValid := true, phase := .validate } := by
  by_cases h : len.toNat ≠ 13
  · simp [parseHeader, Config.ihdrLen, h]
  · simp [parseHeader, Config.ihdrLen, h, loadHeader_eq, Except.map]

/-! ### What each micro-operation answers -/

/-- `SEQ.FRAME` as one case split. -/
theorem execSeqFrame_eq (s : State) :
    execSeqFrame s =
      if s.pos = s.bodyLen then .next { s with phase := .header }
      else if s.bodyLen - s.pos < 4 then .next (s.raise .outOfBounds s.pos (s.bodyLen - s.pos))
      else if (Memory.read4 s.body s.pos).toNat + 12 > s.bodyLen - s.pos then
        .next (s.raise .truncatedChunk s.pos (Memory.read4 s.body s.pos).toNat)
      else .next (s.framed (Memory.read4 s.body (s.pos + 4)) (Memory.read4 s.body s.pos)) := by
  rw [execSeqFrame, frameRecord_eq]
  split
  · rfl
  · split
    · rfl
    · split <;> rfl

/-- `SEQ.HEADER` as one case split. -/
theorem execSeqHeader_eq (s : State) :
    execSeqHeader s =
      match s.firstEntry with
      | none => .next (s.raise .malformedStream 1 0)
      | some e =>
        if e.typeCode ≠ Config.typeIhdr then .next (s.raise .malformedStream 2 e.typeCode.toNat)
        else if e.payLen.toNat ≠ 13 then .next (s.raise .invalidHeader e.payLen.toNat 0)
        else .next { s.withHeader e.payOff with hdrValid := true, phase := .validate } := by
  unfold execSeqHeader
  cases s.firstEntry with
  | none => rfl
  | some e =>
    simp only
    split
    · rfl
    · exact parseHeader_eq _ _ _

/-- `3 * HDR_WIDTH` fits the 34 bits of `ROW_BYTES` (R28). -/
theorem rowBytesOf_lt (w : U32) : rowBytesOf w < 2 ^ 34 := by
  have := w.isLt
  simp only [rowBytesOf, Config.channels]
  omega

/-- `HDR_HEIGHT * (1 + 3 * HDR_WIDTH)` fits the 66 bits of `NEED` (R28). -/
theorem needOf_lt (w h : U32) : needOf w h < 2 ^ 66 := by
  have hw := w.isLt
  have hh := h.isLt
  have h1 : 1 + rowBytesOf w ≤ 2 ^ 34 := by have := rowBytesOf_lt w; omega
  calc needOf w h ≤ (2 ^ 32 - 1) * 2 ^ 34 := Nat.mul_le_mul (by omega) h1
    _ < 2 ^ 66 := by norm_num

@[simp] theorem toNat_rowBytes (w : U32) : (BitVec.ofNat 34 (rowBytesOf w)).toNat = rowBytesOf w := by
  rw [BitVec.toNat_ofNat, Nat.mod_eq_of_lt (rowBytesOf_lt w)]

@[simp] theorem toNat_need (w h : U32) : (BitVec.ofNat 66 (needOf w h)).toNat = needOf w h := by
  rw [BitVec.toNat_ofNat, Nat.mod_eq_of_lt (needOf_lt w h)]

/-- `ROW + 1` does not wrap below a 32-bit height (R28). -/
theorem toNat_row_succ {r : BitVec 33} {h : U32} (hr : r.toNat < h.toNat) : (r + 1#33).toNat = r.toNat + 1 := by
  have := h.isLt
  rw [BitVec.toNat_add]
  simp only [BitVec.toNat_ofNat]
  omega

end Sys2Proof.Machine
end

