-- ==== Sys2Proof/Laws/PerInstr.lean ====
section
/-! SUPPORT. The per-instruction family `EncodedLength`: how many bytes an instruction's encoding has, by its format (R80, R81,
R87, R93, R94): the eight bytes of a chunk's two header fields, one byte for every other selector. -/

namespace Sys2Proof.Laws.EncodedLength

/-- The number of bytes of a format's selector and operand fields. -/
def fieldBytes : Format → Nat
  | .chunk => 8
  | .row => 1
  | .phase => 1
  | .cmd => 1

/-- An encoding has its format's number of bytes. -/
def Statement (i : Instr) : Prop := ∀ f bs, encode i = some (f, bs) → bs.length = fieldBytes f

theorem chunkIhdr (len : U32) : Statement (.chunkIhdr len) := by
  intro f bs h
  cases h
  rfl

theorem chunkIdat (len : U32) : Statement (.chunkIdat len) := by
  intro f bs h
  cases h
  rfl

theorem chunkIend (len : U32) : Statement (.chunkIend len) := by
  intro f bs h
  cases h
  rfl

theorem chunkOther (len typ : U32) : Statement (.chunkOther len typ) := by
  intro f bs h
  cases h
  rfl

theorem rowNone : Statement .rowNone := by
  intro f bs h
  cases h
  rfl

theorem rowSub : Statement .rowSub := by
  intro f bs h
  cases h
  rfl

theorem rowUp : Statement .rowUp := by
  intro f bs h
  cases h
  rfl

theorem rowAvg : Statement .rowAvg := by
  intro f bs h
  cases h
  rfl

theorem rowPaeth : Statement .rowPaeth := by
  intro f bs h
  cases h
  rfl

theorem rowIllegal (ft : Byte) : Statement (.rowIllegal ft) := by
  intro f bs h
  cases h
  rfl

theorem seqIdle : Statement .seqIdle := by
  intro f bs h
  cases h
  rfl

theorem seqFrame : Statement .seqFrame := by
  intro f bs h
  cases h
  rfl

theorem seqHeader : Statement .seqHeader := by
  intro f bs h
  cases h
  rfl

theorem seqValidate : Statement .seqValidate := by
  intro f bs h
  cases h
  rfl

theorem seqConcat : Statement .seqConcat := by
  intro f bs h
  cases h
  rfl

theorem seqInflate : Statement .seqInflate := by
  intro f bs h
  cases h
  rfl

theorem seqLencheck : Statement .seqLencheck := by
  intro f bs h
  cases h
  rfl

theorem seqRows : Statement .seqRows := by
  intro f bs h
  cases h
  rfl

theorem seqEndcheck : Statement .seqEndcheck := by
  intro f bs h
  cases h
  rfl

theorem seqDone : Statement .seqDone := by
  intro f bs h
  cases h
  rfl

theorem seqError : Statement .seqError := by
  intro f bs h
  cases h
  rfl

theorem cmdNop : Statement .cmdNop := by
  intro f bs h
  cases h
  rfl

theorem cmdStart : Statement .cmdStart := by
  intro f bs h
  cases h
  rfl

theorem cmdClear : Statement .cmdClear := by
  intro f bs h
  cases h
  rfl

theorem cmdReserved : Statement .cmdReserved := by
  intro f bs h
  cases h
  rfl

theorem readU32 (dst : U32Dst) (m : ByteMem) (n pos : Nat) : Statement (.readU32 dst m n pos) := by
  intro f bs h
  cases h

theorem readU8 (dst : U8Dst) (m : ByteMem) (n pos : Nat) : Statement (.readU8 dst m n pos) := by
  intro f bs h
  cases h

end Sys2Proof.Laws.EncodedLength
end

