-- ==== Sys2Proof/Laws/Row.lean ====
section
/-! SUPPORT. The laws of the row loop (43 R161 to R164): which bytes it writes, each sample's equation over the finished row, and
what it does not depend on. -/

namespace Sys2Proof.Machine

/-! ### The neighbours, with the distance of three bytes written out -/

theorem leftOf_eq (cur : Memory) (i : Nat) : leftOf cur i = if 3 ≤ i then Memory.read cur (i - 3) else 0#8 := rfl

theorem upLeftOf_eq (prev : Memory) (i : Nat) : upLeftOf prev i = if 3 ≤ i then Memory.read prev (i - 3) else 0#8 := rfl

/-! ### The loop -/

variable {pred : Byte → Byte → Byte → Byte} {infl prev : Memory} {o : Nat}

theorem wf_rowLoop (n : Nat) {cur : Memory} (h : cur.wf = true) : (rowLoop pred infl prev o n cur).wf = true := by
  induction n with
  | zero => exact h
  | succ n ih => exact Memory.wf_write _ _ ih

/-- The loop writes no byte at or beyond its count. -/
theorem read_rowLoop_ge {n a : Nat} {cur : Memory} (h : cur.wf = true) (ha : n ≤ a) :
    Memory.read (rowLoop pred infl prev o n cur) a = Memory.read cur a := by
  induction n with
  | zero => rfl
  | succ n ih => rw [rowLoop, Memory.read_write_other (wf_rowLoop n h) _ (by omega), ih (by omega)]

/-- A sample, once written, stays. -/
theorem read_rowLoop_stable {n k a : Nat} {cur : Memory} (h : cur.wf = true) (ha : a < n) :
    Memory.read (rowLoop pred infl prev o (n + k) cur) a = Memory.read (rowLoop pred infl prev o n cur) a := by
  induction k with
  | zero => rfl
  | succ k ih =>
    rw [← Nat.add_assoc, rowLoop, Memory.read_write_other (wf_rowLoop _ h) _ (by omega), ih]

theorem leftOf_stable {n i : Nat} {cur : Memory} (h : cur.wf = true) (hi : i < n) :
    leftOf (rowLoop pred infl prev o i cur) i = leftOf (rowLoop pred infl prev o n cur) i := by
  unfold leftOf
  split
  · obtain ⟨k, rfl⟩ : ∃ k, n = i + k := ⟨n - i, by omega⟩
    rw [read_rowLoop_stable h (by simp only [Config.channels] at *; omega)]
  · rfl

/-- Each sample's equation (R163, R164), over the finished row. -/
theorem read_rowLoop {n i : Nat} {cur : Memory} (h : cur.wf = true) (hi : i < n) :
    Memory.read (rowLoop pred infl prev o n cur) i =
      reconstruct (Memory.read infl (o + 1 + i))
        (pred (leftOf (rowLoop pred infl prev o n cur) i) (upOf prev i) (upLeftOf prev i)) := by
  have h1 : Memory.read (rowLoop pred infl prev o n cur) i = Memory.read (rowLoop pred infl prev o (i + 1) cur) i := by
    obtain ⟨k, rfl⟩ : ∃ k, n = i + 1 + k := ⟨n - (i + 1), by omega⟩
    exact read_rowLoop_stable h (by omega)
  rw [h1, rowLoop, Memory.read_write_same (wf_rowLoop i h), leftOf_stable h hi]

/-- The row depends on the record's stored bytes and the previous row alone, not on what `CUR_ROW` held. -/
theorem read_rowLoop_congr {infl' prev' cur cur' : Memory} {n : Nat} (h : cur.wf = true) (h' : cur'.wf = true)
    (hi : ∀ i, i < n → Memory.read infl (o + 1 + i) = Memory.read infl' (o + 1 + i))
    (hp : ∀ i, i < n → Memory.read prev i = Memory.read prev' i) {a : Nat} (ha : a < n) :
    Memory.read (rowLoop pred infl prev o n cur) a = Memory.read (rowLoop pred infl' prev' o n cur') a := by
  induction a using Nat.strong_induction_on with
  | _ a ih =>
    rw [read_rowLoop h ha, read_rowLoop h' ha, hi a ha]
    have hl : leftOf (rowLoop pred infl prev o n cur) a = leftOf (rowLoop pred infl' prev' o n cur') a := by
      unfold leftOf
      split
      · rename_i h3
        simp only [Config.channels] at h3 ⊢
        exact ih _ (by omega) (by omega)
      · rfl
    have hul : upLeftOf prev a = upLeftOf prev' a := by
      unfold upLeftOf
      split
      · exact hp _ (by omega)
      · rfl
    rw [hl, hul, show upOf prev a = upOf prev' a from hp a ha]

/-! ### The predictors of a filter byte -/

@[simp] theorem predictorOf_zero : predictorOf 0#8 = predNone := rfl
@[simp] theorem predictorOf_one : predictorOf 1#8 = predSub := rfl
@[simp] theorem predictorOf_two : predictorOf 2#8 = predUp := rfl
@[simp] theorem predictorOf_three : predictorOf 3#8 = predAvg := rfl
@[simp] theorem predictorOf_four : predictorOf 4#8 = predPaeth := rfl

/-- A legal filter byte is one of five. -/
theorem filter_cases {ft : Byte} (h : ¬ 4 < ft.toNat) : ft = 0#8 ∨ ft = 1#8 ∨ ft = 2#8 ∨ ft = 3#8 ∨ ft = 4#8 := by
  have : ft.toNat = 0 ∨ ft.toNat = 1 ∨ ft.toNat = 2 ∨ ft.toNat = 3 ∨ ft.toNat = 4 := by omega
  rcases this with h | h | h | h | h
  · exact .inl (BitVec.eq_of_toNat_eq h)
  · exact .inr (.inl (BitVec.eq_of_toNat_eq h))
  · exact .inr (.inr (.inl (BitVec.eq_of_toNat_eq h)))
  · exact .inr (.inr (.inr (.inl (BitVec.eq_of_toNat_eq h))))
  · exact .inr (.inr (.inr (.inr (BitVec.eq_of_toNat_eq h))))

end Sys2Proof.Machine
end

