-- ==== Sys2Proof/Laws/Step.lean ====
section
/-! SUPPORT. What one step can be: the instruction the sequencer fetches, and one inversion lemma over the turns of all agents. -/

namespace Sys2Proof.Machine

/-- The micro-operation of a phase (R22, R93). -/
def seqInstrOf : Phase → Instr
  | .idle => .seqIdle
  | .frame => .seqFrame
  | .header => .seqHeader
  | .validate => .seqValidate
  | .concat => .seqConcat
  | .inflate => .seqInflate
  | .lencheck => .seqLencheck
  | .rows => .seqRows
  | .endcheck => .seqEndcheck
  | .done => .seqDone
  | .error => .seqError

theorem decodePhase_code (p : Phase) : decodePhase p.code = .ok (seqInstrOf p) := by cases p <;> rfl

theorem sequencerTurn_eq (s : State) : sequencerTurn s = .run (seqInstrOf s.phase) s := by
  rw [sequencerTurn, decodePhase_code]

/-- The state a turn of `s` runs on: `s` with the turn taken off the agenda. -/
def State.afterTurn (s : State) (rest : List Turn) : State := { s with agenda := rest }

theorem step_nil {s : State} (h : s.agenda = []) : step s = exec (seqInstrOf s.phase) s := by
  rw [step, takeTurn, h]
  simp only [sequencerTurn_eq]

theorem step_sequencer {s : State} {rest : List Turn} (h : s.agenda = .sequencer :: rest) :
    step s = exec (seqInstrOf s.phase) (s.afterTurn rest) := by
  rw [step, takeTurn, h]
  simp only [turnAction, sequencerTurn_eq]
  rfl

theorem step_collaborator {s : State} {rest : List Turn} (h : s.agenda = .collaborator :: rest) :
    step s = .next (collaboratorTurn (s.afterTurn rest)) := by
  rw [step, takeTurn, h]
  rfl

theorem step_reset {s : State} {rest : List Turn} (h : s.agenda = .reset :: rest) :
    step s = .next (s.afterTurn rest).resetEvent := by
  rw [step, takeTurn, h]
  rfl

theorem step_command {s : State} {v : Nat} {rest : List Turn} (h : s.agenda = .writeReg 0#5 v :: rest) :
    step s = exec (decodeCmd (BitVec.ofNat 2 v)) (s.afterTurn rest) := by
  rw [step, takeTurn, h]
  rfl

theorem step_writeBody {s : State} {a : Nat} {v : Byte} {rest : List Turn} (h : s.agenda = .writeBody a v :: rest) :
    step s = writeBodyTurn a v (s.afterTurn rest) := by
  rw [step, takeTurn, h]
  rfl

/-- A register write by the host is a command, a write of `BODY_LEN`, or nothing (R21). -/
theorem writeRegTurn_cases (index : BitVec 5) (v : Nat) (s : State) :
    (index = 0#5 ∧ writeRegTurn index v s = .run (decodeCmd (BitVec.ofNat 2 v)) s) ∨
    (index = 5#5 ∧ writeRegTurn index v s = .effect (.next (if s.busy then s else { s with bodyLen := v }))) ∨
    (index ≠ 0#5 ∧ index ≠ 5#5 ∧ writeRegTurn index v s = .effect (.next s)) := by
  by_cases h0 : index = 0#5
  · subst h0; exact .inl ⟨rfl, rfl⟩
  · by_cases h5 : index = 5#5
    · subst h5; exact .inr (.inl ⟨rfl, rfl⟩)
    · refine .inr (.inr ⟨h0, h5, ?_⟩)
      have n0 : index.toNat ≠ 0 := fun h => h0 (BitVec.eq_of_toNat_eq h)
      have n5 : index.toNat ≠ 5 := fun h => h5 (BitVec.eq_of_toNat_eq h)
      unfold writeRegTurn
      split <;> first | contradiction | rfl

/-- What a command can do (R201 to R203). -/
theorem exec_command_cases (c : BitVec 2) (s : State) :
    exec (decodeCmd c) s = .next s ∨
    (s.busy = false ∧ c = 1#2 ∧ exec (decodeCmd c) s = .next { s.clearDecode with phase := .frame }) ∨
    (s.busy = false ∧ c = 2#2 ∧ exec (decodeCmd c) s = .next { s.clearDecode with phase := .idle }) := by
  have hc : c = 0#2 ∨ c = 1#2 ∨ c = 2#2 ∨ c = 3#2 := by
    have := c.isLt
    have h4 : c.toNat = 0 ∨ c.toNat = 1 ∨ c.toNat = 2 ∨ c.toNat = 3 := by omega
    rcases h4 with h | h | h | h
    · exact .inl (BitVec.eq_of_toNat_eq h)
    · exact .inr (.inl (BitVec.eq_of_toNat_eq h))
    · exact .inr (.inr (.inl (BitVec.eq_of_toNat_eq h)))
    · exact .inr (.inr (.inr (BitVec.eq_of_toNat_eq h)))
  rcases hc with rfl | rfl | rfl | rfl
  · exact .inl rfl
  · cases hb : s.busy with
    | true => exact .inl (if_pos hb)
    | false => exact .inr (.inl ⟨rfl, rfl, if_neg (by simp [hb])⟩)
  · cases hb : s.busy with
    | true => exact .inl (if_pos hb)
    | false => exact .inr (.inr ⟨rfl, rfl, if_neg (by simp [hb])⟩)
  · exact .inl rfl

/-- Everything the collaborator's turn can do (R207, R208, R284), with the guards under which it does. -/
inductive CollabStep (u : State) : State → Prop where
  | nothing (h : u.inflReq = false ∨ u.inflAnswer ≠ none ∨ answerFor u.collab u.submitted = none) : CollabStep u u
  | deliversOk (bytes : List Byte) (hr : u.inflReq = true) (ha : u.inflAnswer = none)
      (h : answerFor u.collab u.submitted = some (.ok bytes)) :
      CollabStep u { u with infl := Memory.writeBytes u.infl 0 bytes, inflLen := bytes.length, inflAnswer := some .ok }
  | deliversFail (hr : u.inflReq = true) (ha : u.inflAnswer = none) (h : answerFor u.collab u.submitted = some .fail) :
      CollabStep u { u with inflAnswer := some .fail }

/-- The inversion lemma of the collaborator's turn. -/
theorem collabStep (u : State) : CollabStep u (collaboratorTurn u) := by
  unfold collaboratorTurn
  split_ifs with hg
  · have hr : u.inflReq = true := by simp_all
    have ha : u.inflAnswer = none := by simp_all
    cases h : answerFor u.collab u.submitted with
    | none => exact .nothing (.inr (.inr h))
    | some a =>
      cases a with
      | ok bytes => exact .deliversOk bytes hr ha h
      | fail => exact .deliversFail hr ha h
  · refine .nothing ?_
    by_cases hr : u.inflReq = true
    · exact .inr (.inl fun ha => hg (by simp [hr, ha]))
    · exact .inl (by simpa using hr)

/-- With no request outstanding, or an answer waiting, the collaborator writes nothing. -/
theorem collaboratorTurn_idle {s : State} (h : s.inflReq = false ∨ s.inflAnswer ≠ none) : collaboratorTurn s = s := by
  unfold collaboratorTurn
  rw [if_neg (by rcases h with h | h <;> simp [h])]

/-- An outstanding request is answered by what the collaborator's function gives for the submitted bytes. -/
theorem collaboratorTurn_answers {s : State} (hr : s.inflReq = true) (ha : s.inflAnswer = none) :
    collaboratorTurn s = match answerFor s.collab s.submitted with
      | none => s
      | some a => s.deliver a := by
  exact if_pos (by simp [hr, ha])

/-- Everything a step that answers a next state can have been, over the state `u` with the turn taken off the agenda. -/
theorem step_next_cases {s t : State} (h : step s = .next t) :
    ∃ u : State, (s.agenda = [] ∧ u = s ∨ ∃ x rest, s.agenda = x :: rest ∧ u = s.afterTurn rest) ∧
      ((s.agenda.head?.getD .sequencer = .sequencer ∧ exec (seqInstrOf u.phase) u = .next t) ∨
       (s.agenda.head? = some .collaborator ∧ t = collaboratorTurn u) ∨
       (s.agenda.head? = some .reset ∧ t = u.resetEvent) ∨
       (∃ v, s.agenda.head? = some (.writeReg 0#5 v) ∧ BitVec.ofNat 2 v = 1#2 ∧ u.busy = false ∧
          t = { u.clearDecode with phase := .frame }) ∨
       (∃ v, s.agenda.head? = some (.writeReg 0#5 v) ∧ BitVec.ofNat 2 v = 2#2 ∧ u.busy = false ∧
          t = { u.clearDecode with phase := .idle }) ∨
       (∃ v, s.agenda.head? = some (.writeReg 5#5 v) ∧ u.busy = false ∧ t = { u with bodyLen := v }) ∨
       (∃ a v, s.agenda.head? = some (.writeBody a v) ∧ u.busy = false ∧
          t = { u with body := Memory.write u.body a v }) ∨
       (∃ v, s.agenda ≠ [] ∧ t = u.answerHost v) ∨
       s.agenda ≠ [] ∧ t = u) := by
  cases ha : s.agenda with
  | nil =>
    rw [step_nil ha] at h
    exact ⟨s, .inl ⟨rfl, rfl⟩, .inl ⟨rfl, h⟩⟩
  | cons x rest =>
    refine ⟨s.afterTurn rest, .inr ⟨x, rest, rfl, rfl⟩, ?_⟩
    cases x with
    | sequencer =>
      rw [step_sequencer ha] at h
      exact .inl ⟨rfl, h⟩
    | collaborator =>
      rw [step_collaborator ha] at h
      injection h with h
      exact .inr (.inl ⟨rfl, h.symm⟩)
    | reset =>
      rw [step_reset ha] at h
      injection h with h
      exact .inr (.inr (.inl ⟨rfl, h.symm⟩))
    | writeReg index v =>
      have hs : step s = match writeRegTurn index v (s.afterTurn rest) with
          | .run i t => exec i t
          | .effect o => o := by
        rw [step, takeTurn, ha]
        rfl
      rw [hs] at h
      rcases writeRegTurn_cases index v (s.afterTurn rest) with ⟨rfl, hw⟩ | ⟨rfl, hw⟩ | ⟨_, _, hw⟩
      · rw [hw] at h
        simp only at h
        rcases exec_command_cases (BitVec.ofNat 2 v) (s.afterTurn rest) with hc | ⟨hb, hc1, hc⟩ | ⟨hb, hc1, hc⟩
        · rw [hc] at h
          injection h with h
          exact .inr (.inr (.inr (.inr (.inr (.inr (.inr (.inr ⟨by simp, h.symm⟩)))))))
        · rw [hc] at h
          injection h with h
          exact .inr (.inr (.inr (.inl ⟨v, rfl, hc1, hb, h.symm⟩)))
        · rw [hc] at h
          injection h with h
          exact .inr (.inr (.inr (.inr (.inl ⟨v, rfl, hc1, hb, h.symm⟩))))
      · rw [hw] at h
        simp only at h
        injection h with h
        cases hb : (s.afterTurn rest).busy with
        | true =>
          rw [if_pos hb] at h
          exact .inr (.inr (.inr (.inr (.inr (.inr (.inr (.inr ⟨by simp, h.symm⟩)))))))
        | false =>
          rw [if_neg (by simp [hb])] at h
          exact .inr (.inr (.inr (.inr (.inr (.inl ⟨v, rfl, rfl, h.symm⟩)))))
      · rw [hw] at h
        simp only at h
        injection h with h
        exact .inr (.inr (.inr (.inr (.inr (.inr (.inr (.inr ⟨by simp, h.symm⟩)))))))
    | writeBody a v =>
      rw [step_writeBody ha, writeBodyTurn] at h
      cases hb : (s.afterTurn rest).busy with
      | true =>
        rw [if_pos hb] at h
        cases h
      | false =>
        rw [if_neg (by simp [hb])] at h
        injection h with h
        exact .inr (.inr (.inr (.inr (.inr (.inr (.inl ⟨a, v, rfl, rfl, h.symm⟩))))))
    | readReg index =>
      rw [step, takeTurn, ha] at h
      injection h with h
      exact .inr (.inr (.inr (.inr (.inr (.inr (.inr (.inl ⟨_, by simp, h.symm⟩)))))))
    | readBody a =>
      rw [step, takeTurn, ha] at h
      injection h with h
      exact .inr (.inr (.inr (.inr (.inr (.inr (.inr (.inl ⟨_, by simp, h.symm⟩)))))))
    | readGrid a =>
      rw [step, takeTurn, ha] at h
      injection h with h
      exact .inr (.inr (.inr (.inr (.inr (.inr (.inr (.inl ⟨_, by simp, h.symm⟩)))))))

/-- Everything a sequencer step can do (R121, R140, R144, R160, R161, R205, R208, R210, R240): one case per way its rule ends, with
the guards under which it does. -/
inductive SeqStep (u : State) : State → Prop where
  | waits (hp : u.phase = .idle ∨ u.phase = .done ∨ u.phase = .error ∨ u.phase = .inflate ∧ u.inflAnswer = none) : SeqStep u u
  | raises (e : PngError) (i0 i1 : Nat) (hb : u.busy = true) (hp : u.phase ≠ .inflate) : SeqStep u (u.raise e i0 i1)
  | framesLast (hp : u.phase = .frame) (hpos : u.pos = u.bodyLen) : SeqStep u { u with phase := .header }
  | frames (typ len : U32) (hp : u.phase = .frame) (hl : len = Memory.read4 u.body u.pos)
      (ht : typ = Memory.read4 u.body (u.pos + 4)) (hpos : u.pos ≠ u.bodyLen) (h4 : 4 ≤ u.bodyLen - u.pos)
      (hfit : len.toNat + 12 ≤ u.bodyLen - u.pos) : SeqStep u (u.framed typ len)
  | parsesHeader (e : ChunkEntry) (hp : u.phase = .header) (he : u.firstEntry = some e)
      (ht : e.typeCode = Config.typeIhdr) (hl : e.payLen.toNat = 13) :
      SeqStep u { u.withHeader e.payOff with hdrValid := true, phase := .validate }
  | validates (hp : u.phase = .validate) (h1 : u.hdrBitDepth = 8#8) (h2 : u.hdrColorType = Config.colorTruecolor)
      (h3 : u.hdrCompression = 0#8) (h4 : u.hdrFilter = 0#8) (h5 : u.hdrInterlace = 0#8) :
      SeqStep u { u with ci := 0, compLen := 0, phase := .concat }
  | requests (hp : u.phase = .concat) (hc : u.ci = u.nChunks) : SeqStep u { u with inflReq := true, phase := .inflate }
  | copies (e : ChunkEntry) (hp : u.phase = .concat) (hc : u.ci ≠ u.nChunks) (he : u.ciEntry = some e)
      (ht : e.typeCode = Config.typeIdat) :
      SeqStep u { u with
        comp := Memory.writeBytes u.comp u.compLen (Memory.readBytes u.body e.payOff e.payLen.toNat)
        compLen := u.compLen + e.payLen.toNat
        ci := u.ci + 1 }
  | passes (e : ChunkEntry) (hp : u.phase = .concat) (hc : u.ci ≠ u.nChunks) (he : u.ciEntry = some e)
      (ht : e.typeCode ≠ Config.typeIdat) : SeqStep u { u with ci := u.ci + 1 }
  | inflates (hp : u.phase = .inflate) (ha : u.inflAnswer = some .ok) :
      SeqStep u { u with inflReq := false, inflAnswer := none, phase := .lencheck }
  | inflateFails (hp : u.phase = .inflate) (ha : u.inflAnswer = some .fail) :
      SeqStep u (State.raise .decompressionError u.compLen 0 { u with inflAnswer := none })
  | passesLength (hp : u.phase = .lencheck) (hl : needOf u.hdrWidth u.hdrHeight ≤ u.inflLen) :
      SeqStep u { u with
        rowBytes := BitVec.ofNat 34 (rowBytesOf u.hdrWidth)
        need := BitVec.ofNat 66 (needOf u.hdrWidth u.hdrHeight)
        row := 0#33
        prevRow := Memory.zeroBelow (rowBytesOf u.hdrWidth) u.prevRow
        phase := .rows }
  | rowsEnd (hp : u.phase = .rows) (hr : u.row.toNat = u.hdrHeight.toNat) : SeqStep u { u with phase := .endcheck }
  | rowDone (hp : u.phase = .rows) (hr : u.row.toNat ≠ u.hdrHeight.toNat) (hf : u.filterByte.toNat ≤ 4) :
      SeqStep u (reconstructRow u.filterByte (predictorOf u.filterByte) u)
  | finishes (e : ChunkEntry) (hp : u.phase = .endcheck) (he : u.lastEntry = some e) (ht : e.typeCode = Config.typeIend)
      (hl : e.payLen = 0#32) : SeqStep u { u with phase := .done }

theorem busy_of_phase {s : State} {p : Phase} (h : s.phase = p)
    (hp : (decide (1 ≤ p.code.toNat) && decide (p.code.toNat ≤ 8)) = true) : s.busy = true := by
  rw [State.busy, h]
  exact hp

/-- The inversion lemma of the sequencer's step. -/
theorem seqStep_of_exec {u t : State} (h : exec (seqInstrOf u.phase) u = .next t) : SeqStep u t := by
  cases hp : u.phase <;> rw [hp] at h <;> simp only [seqInstrOf] at h
  case idle => injection h with h; subst h; exact .waits (.inl hp)
  case done => injection h with h; subst h; exact .waits (.inr (.inl hp))
  case error => injection h with h; subst h; exact .waits (.inr (.inr (.inl hp)))
  case frame =>
    have hb := busy_of_phase hp rfl
    have h : execSeqFrame u = .next t := h
    rw [execSeqFrame_eq] at h
    split_ifs at h with h1 h2 h3 <;> injection h with h <;> subst h
    · exact .framesLast hp h1
    · exact .raises _ _ _ hb (by simp [hp])
    · exact .raises _ _ _ hb (by simp [hp])
    · exact .frames _ _ hp rfl rfl h1 (by omega) (by omega)
  case header =>
    have hb := busy_of_phase hp rfl
    have h : execSeqHeader u = .next t := h
    rw [execSeqHeader_eq] at h
    cases hf : u.firstEntry with
    | none =>
      rw [hf] at h
      injection h with h; subst h; exact .raises _ _ _ hb (by simp [hp])
    | some e =>
      rw [hf] at h
      simp only at h
      split_ifs at h with h1 h2 <;> injection h with h <;> subst h
      · exact .raises _ _ _ hb (by simp [hp])
      · exact .raises _ _ _ hb (by simp [hp])
      · exact .parsesHeader e hp hf (not_not.mp h1) (not_not.mp h2)
  case validate =>
    have hb := busy_of_phase hp rfl
    have h : execSeqValidate u = .next t := h
    unfold execSeqValidate at h
    split_ifs at h with h1 h2 h3 h4 h5 <;> injection h with h <;> subst h
    iterate 5
      · exact .raises _ _ _ hb (by simp [hp])
    · exact .validates hp (not_not.mp h1) (not_not.mp h2) (not_not.mp h3) (not_not.mp h4) (not_not.mp h5)
  case concat =>
    have h : execSeqConcat u = .next t := h
    unfold execSeqConcat at h
    split_ifs at h with h1
    · injection h with h; subst h; exact .requests hp h1
    · cases hf : u.ciEntry with
      | none => rw [hf] at h; cases h
      | some e =>
        rw [hf] at h
        simp only [copyChunk, passChunk] at h
        split_ifs at h with h2 <;> injection h with h <;> subst h
        · exact .copies e hp h1 hf h2
        · exact .passes e hp h1 hf h2
  case inflate =>
    have h : execSeqInflate u = .next t := h
    unfold execSeqInflate at h
    split at h <;> injection h with h <;> subst h
    · exact .waits (.inr (.inr (.inr ⟨hp, ‹_›⟩)))
    · exact .inflates hp ‹_›
    · exact .inflateFails hp ‹_›
  case lencheck =>
    have hb := busy_of_phase hp rfl
    have h : execSeqLencheck u = .next t := h
    unfold execSeqLencheck at h
    split_ifs at h with h1 <;> injection h with h <;> subst h
    · exact .raises _ _ _ hb (by simp [hp])
    · exact .passesLength hp (Nat.not_lt.mp h1)
  case rows =>
    have hb := busy_of_phase hp rfl
    have h : execSeqRows u = .next t := h
    unfold execSeqRows at h
    split_ifs at h with h1 h2 <;> injection h with h <;> subst h
    · exact .rowsEnd hp h1
    · exact .raises _ _ _ hb (by simp [hp])
    · exact .rowDone hp h1 (Nat.not_lt.mp h2)
  case endcheck =>
    have hb := busy_of_phase hp rfl
    have h : execSeqEndcheck u = .next t := h
    unfold execSeqEndcheck at h
    cases hf : u.lastEntry with
    | none => rw [hf] at h; cases h
    | some e =>
      rw [hf] at h
      simp only [endMarker, lastNotIend] at h
      split_ifs at h with h1 h2 <;> injection h with h <;> subst h
      · exact .raises _ _ _ hb (by simp [hp])
      · exact .raises _ _ _ hb (by simp [hp])
      · exact .finishes e hp hf (not_not.mp h1) (not_not.mp h2)

end Sys2Proof.Machine
end

