-- ==== Sys2Proof/Tests/Slice0.lean ====
section
/-! SUPPORT. Own tests. Expected values come from spec/95_test_vectors.md (the vector is named) or from the rule's own example. Then
one named witness per statement of Obligations.lean that has hypotheses: concrete states and operands that meet them. -/

namespace Sys2Proof.Tests
open Sys2Proof Sys2Proof.Machine

/-! ### Helpers -/

/-- A view of the next state, where there is one. -/
def after {α : Type} (o : Host.Outcome State Fault Refusal) (view : State → α) : Option α :=
  match o with
  | .next t => some (view t)
  | .fault _ => none
  | .refused _ => none

/-- A memory holding `bs` from offset 0. -/
def memOf (bs : List Byte) : Memory := Memory.writeBytes [] 0 bs

/-- The error a state records: code and information values. -/
def errorOf (s : State) : Phase × Nat × Nat × Nat := (s.phase, s.errCode.toNat, s.errInfo0, s.errInfo1)

/-- After reset, with a body loaded, in a phase. -/
def withBody (p : Phase) (bs : List Byte) : State :=
  { State.reset with phase := p, body := memOf bs, bodyLen := bs.length }

/-- In `ROWS`: row `r` of a `w` pixel wide image of 9 rows, the record at the row's offset. -/
def withRow (w r : Nat) (prev record : List Byte) : State :=
  { State.reset with
    phase := .rows, hdrWidth := BitVec.ofNat 32 w, hdrHeight := 9#32, rowBytes := BitVec.ofNat 34 (3 * w)
    row := BitVec.ofNat 33 r, prevRow := memOf prev
    infl := Memory.writeBytes [] (r * (1 + 3 * w)) record, inflLen := 9 * (1 + 3 * w) }

/-- The row in `CUR_ROW`. -/
def rowOf (s : State) : List Byte := Memory.readBytes s.curRow 0 s.rowBytes.toNat

/-! ### Well-formedness: an ill-formed term for each check is refused -/

theorem test_wf_other_refuses_ihdr : (Instr.chunkOther 0#32 0x49484452#32).wellFormed = false := by decide
theorem test_wf_other_refuses_idat : (Instr.chunkOther 0#32 0x49444154#32).wellFormed = false := by decide
theorem test_wf_other_refuses_iend : (Instr.chunkOther 0#32 0x49454E44#32).wellFormed = false := by decide
theorem test_wf_illegal_refuses_paeth : (Instr.rowIllegal 4#8).wellFormed = false := by decide
theorem test_wf_illegal_takes_five : (Instr.rowIllegal 5#8).wellFormed = true := by decide
theorem test_wf_readU32_refuses_position_past_end : (Instr.readU32 .hdrWidth .body 4 5).wellFormed = false := by decide
theorem test_wf_readU8_refuses_position_past_end : (Instr.readU8 .hdrFilter .body 0 1).wellFormed = false := by decide

/-! ### Decoding: words written out from the tables of R81, R90, R91, R22, R94 -/

theorem test_decode_chunks :
    decode .chunk [0x00#8, 0x00#8, 0x00#8, 0x0D#8, 0x49#8, 0x48#8, 0x44#8, 0x52#8] = .ok (.chunkIhdr 13#32, []) ∧
    decode .chunk [0x00#8, 0x00#8, 0x01#8, 0x00#8, 0x49#8, 0x44#8, 0x41#8, 0x54#8] = .ok (.chunkIdat 256#32, []) ∧
    decode .chunk [0x00#8, 0x00#8, 0x00#8, 0x00#8, 0x49#8, 0x45#8, 0x4E#8, 0x44#8, 0xAE#8] = .ok (.chunkIend 0#32, [0xAE#8]) ∧
    decode .chunk [0xFF#8, 0xFF#8, 0xFF#8, 0xFF#8, 0x69#8, 0x68#8, 0x64#8, 0x72#8] =
      .ok (.chunkOther 4294967295#32 0x69686472#32, []) := by decide

theorem test_decode_rows :
    decode .row [0#8] = .ok (.rowNone, []) ∧ decode .row [1#8] = .ok (.rowSub, []) ∧ decode .row [2#8] = .ok (.rowUp, []) ∧
    decode .row [3#8] = .ok (.rowAvg, []) ∧ decode .row [4#8] = .ok (.rowPaeth, []) ∧
    decode .row [5#8] = .ok (.rowIllegal 5#8, []) ∧ decode .row [255#8] = .ok (.rowIllegal 255#8, []) := by decide

theorem test_decode_phases :
    decode .phase [0#8] = .ok (.seqIdle, []) ∧ decode .phase [1#8] = .ok (.seqFrame, []) ∧
    decode .phase [2#8] = .ok (.seqHeader, []) ∧ decode .phase [3#8] = .ok (.seqValidate, []) ∧
    decode .phase [4#8] = .ok (.seqConcat, []) ∧ decode .phase [5#8] = .ok (.seqInflate, []) := by decide

theorem test_decode_later_phases :
    decode .phase [6#8] = .ok (.seqLencheck, []) ∧ decode .phase [7#8] = .ok (.seqRows, []) ∧
    decode .phase [8#8] = .ok (.seqEndcheck, []) ∧ decode .phase [9#8] = .ok (.seqDone, []) ∧
    decode .phase [10#8] = .ok (.seqError, []) ∧ decode .phase [15#8] = .error (.reservedPhase 15#4) := by decide

theorem test_decode_commands :
    decode .cmd [0#8] = .ok (.cmdNop, []) ∧ decode .cmd [1#8] = .ok (.cmdStart, []) ∧
    decode .cmd [2#8] = .ok (.cmdClear, []) ∧ decode .cmd [3#8] = .ok (.cmdReserved, []) := by decide

theorem test_decode_too_short :
    decode .chunk [0#8, 0#8, 0#8, 0#8, 0x49#8, 0x44#8, 0x41#8] = .error .tooShort ∧ decode .row [] = .error .tooShort := by decide

theorem test_table_words :
    decodeTableWord 32 0x49484452 = some (.chunkIhdr 0#32) ∧ decodeTableWord 4 7 = some .seqRows ∧
    decodeTableWord 2 2 = some .cmdClear ∧ decodeTableWord 8 9 = some .seqDone ∧
    decodeTableWord 8 255 = some (.rowIllegal 255#8) := by decide

/-- A placed chunk word is framed by the very next step; the fetched row raises. -/
theorem test_fetch_word_runs :
    after (step (State.reset.withFetchWord 32 0x49454E44)) (fun t => (t.chunkTable, t.pos)) =
      some ([⟨0x49454E44#32, 8, 0#32⟩], 12) ∧
    after (step (State.reset.withFetchWord 8 255)) errorOf = some (.error, 6, 0, 255) := by decide

/-! ### READ_U32, READ_U8 -/

/-- V-CUR5, V-CUR6, V-CUR3. -/
theorem test_readU32_big_endian :
    cursorU32 (memOf [1#8, 2#8, 3#8, 4#8]) 4 0 = .ok (0x01020304#32, 4) ∧
    cursorU32 (memOf [0xAA#8, 0#8, 0#8, 1#8, 0#8]) 5 1 = .ok (256#32, 5) ∧
    cursorU32 (memOf [255#8, 255#8, 255#8, 255#8]) 4 0 = .ok (4294967295#32, 4) := by decide

/-- V-CUR7 to V-CUR9. -/
theorem test_readU32_out_of_bounds :
    after (exec (.readU32 .frameLength .body 3 0) (withBody .frame [0#8, 0#8, 0#8])) errorOf = some (.error, 1, 0, 3) ∧
    after (exec (.readU32 .frameLength .body 5 4) (withBody .frame [0#8, 0#8, 0#8, 13#8, 0x49#8])) errorOf =
      some (.error, 1, 4, 1) ∧
    cursorU32 [] 4 4 = .error ⟨.outOfBounds, 4, 0⟩ := by decide

/-- V-CUR10, V-CUR11. -/
theorem test_readU8 :
    cursorU8 (memOf [8#8, 2#8]) 2 0 = .ok (8#8, 1) ∧ cursorU8 (memOf [8#8, 255#8]) 2 1 = .ok (255#8, 2) := by decide

theorem test_readU8_keeps_byte_and_position :
    after (exec (.readU8 .hdrFilter .body 2 1) (withBody .header [8#8, 255#8])) (fun t => (t.hdrFilter, t.hdrPos, t.pos)) =
      some (255#8, 2, 0) := by decide

/-! ### CHUNK, SEQ.FRAME -/

/-- V-FRM5 (CHUNK.IEND framed), V-FRM9 (CHUNK.OTHER framed). -/
theorem test_frame_one_record :
    after (exec .seqFrame (withBody .frame [0#8, 0#8, 0#8, 0#8, 0x49#8, 0x45#8, 0x4E#8, 0x44#8, 0xAE#8, 0x42#8, 0x60#8, 0x82#8]))
      (fun t => (t.phase, t.chunkTable, t.pos)) = some (.frame, [⟨0x49454E44#32, 8, 0#32⟩], 12) ∧
    after (exec .seqFrame (withBody .frame [0#8, 0#8, 0#8, 2#8, 0x41#8, 0x42#8, 0x43#8, 0x44#8, 0x11#8, 0x22#8, 0xDE#8, 0xAD#8,
      0xBE#8, 0xEF#8])) (fun t => (t.chunkTable, t.pos)) = some ([⟨0x41424344#32, 8, 2#32⟩], 14) := by decide

/-- V-FRM2, V-FRM3, V-FRM4, V-FRM6. -/
theorem test_frame_errors :
    after (exec .seqFrame (withBody .frame [0#8, 0#8, 0#8])) errorOf = some (.error, 1, 0, 3) ∧
    after (exec .seqFrame (withBody .frame [0#8, 0#8, 0#8, 0#8, 0x49#8, 0x44#8, 0x41#8])) errorOf = some (.error, 2, 0, 0) ∧
    after (exec .seqFrame (withBody .frame [0#8, 0#8, 0#8, 0#8, 0x49#8, 0x45#8, 0x4E#8, 0x44#8, 0#8, 0#8, 0#8])) errorOf =
      some (.error, 2, 0, 0) ∧
    after (exec .seqFrame (withBody .frame [0xFF#8, 0xFF#8, 0xFF#8, 0xFF#8, 0x49#8, 0x44#8, 0x41#8, 0x54#8, 0#8, 0#8, 0#8, 0#8, 0#8,
      0#8, 0#8, 0#8])) errorOf = some (.error, 2, 0, 4294967295) := by decide

/-- R127's example: the IHDR record frames to (0x49484452, 8, 13). -/
theorem test_chunkIhdr_framed :
    after (exec (.chunkIhdr 13#32) { State.reset with phase := .frame, bodyLen := 25 }) (fun t => (t.chunkTable, t.pos)) =
      some ([⟨0x49484452#32, 8, 13#32⟩], 25) := by decide

/-- R128: an unknown chunk is passed over in `CONCAT`, and as the last chunk is MalformedStream(3, type) (V-DRV5). -/
theorem test_chunkOther_by_position :
    after (exec (.chunkOther 1#32 0x74455874#32)
      { State.reset with phase := .concat, chunkTable := [⟨0x74455874#32, 8, 1#32⟩], body := [(8, 0x78#8)] })
      (fun t => (t.ci, t.compLen, t.comp)) = some (1, 0, []) ∧
    after (exec (.chunkOther 1#32 0x74455874#32)
      { State.reset with phase := .endcheck, chunkTable := [⟨0x74455874#32, 8, 1#32⟩] }) errorOf =
      some (.error, 8, 3, 0x74455874) := by decide

/-! ### SEQ.HEADER, SEQ.VALIDATE -/

/-- V-HDR10: the payload at offset 8, and the record's own entry. -/
theorem test_header_extracts :
    after (exec .seqHeader { State.reset with
      phase := .header, chunkTable := [⟨0x49484452#32, 8, 13#32⟩]
      body := Memory.writeBytes [] 8 [0#8, 0#8, 1#8, 0#8, 0x80#8, 0#8, 0#8, 0#8, 8#8, 2#8, 0#8, 0#8, 0#8] })
      (fun t => (t.hdrWidth.toNat, t.hdrHeight.toNat, t.hdrBitDepth, t.hdrColorType, t.hdrValid, t.phase)) =
      some (256, 2147483648, 8#8, 2#8, true, .validate) := by decide

/-- V-FRM1 (no chunk), V-HDR1, V-HDR3. -/
theorem test_header_errors :
    after (exec .seqHeader { State.reset with phase := .header }) errorOf = some (.error, 8, 1, 0) ∧
    after (exec .seqHeader { State.reset with phase := .header, chunkTable := [⟨0x49444154#32, 8, 13#32⟩] }) errorOf =
      some (.error, 8, 2, 0x49444154) ∧
    after (exec .seqHeader { State.reset with phase := .header, chunkTable := [⟨0x49484452#32, 8, 12#32⟩] }) errorOf =
      some (.error, 3, 12, 0) := by decide

/-- In `VALIDATE` with the five format fields. -/
def withFormat (bd ct cm fm im : Byte) : State :=
  { State.reset with
    phase := .validate, hdrBitDepth := bd, hdrColorType := ct, hdrCompression := cm, hdrFilter := fm, hdrInterlace := im
    hdrValid := true }

/-- V-HDR5 to V-HDR9. -/
theorem test_validate_names_first_field :
    after (exec .seqValidate (withFormat 16#8 6#8 0#8 0#8 1#8)) errorOf = some (.error, 4, 1, 16) ∧
    after (exec .seqValidate (withFormat 8#8 6#8 0#8 0#8 0#8)) errorOf = some (.error, 4, 2, 6) ∧
    after (exec .seqValidate (withFormat 8#8 2#8 1#8 0#8 0#8)) errorOf = some (.error, 4, 3, 1) ∧
    after (exec .seqValidate (withFormat 8#8 2#8 0#8 1#8 0#8)) errorOf = some (.error, 4, 4, 1) ∧
    after (exec .seqValidate (withFormat 8#8 2#8 0#8 0#8 1#8)) errorOf = some (.error, 4, 5, 1) := by decide

theorem test_validate_accepts :
    after (exec .seqValidate (withFormat 8#8 2#8 0#8 0#8 0#8)) (fun t => t.phase) = some .concat := by decide

/-! ### SEQ.CONCAT, SEQ.INFLATE -/

/-- R129's example: after `78 DA 63` the second IDAT appends `F8 D5`. -/
theorem test_chunkIdat_appends :
    after (exec (.chunkIdat 2#32)
      { State.reset with
        phase := .concat, chunkTable := [⟨0x49444154#32, 20, 2#32⟩], body := [(20, 0xF8#8), (21, 0xD5#8)]
        comp := memOf [0x78#8, 0xDA#8, 0x63#8], compLen := 3 })
      (fun t => (Memory.readBytes t.comp 0 t.compLen, t.ci)) =
      some ([0x78#8, 0xDA#8, 0x63#8, 0xF8#8, 0xD5#8], 1) := by decide

theorem test_concat_passes_header_and_ends :
    after (exec .seqConcat { State.reset with phase := .concat, chunkTable := [⟨0x49484452#32, 8, 13#32⟩] })
      (fun t => (t.ci, t.compLen, t.phase)) = some (1, 0, .concat) ∧
    after (exec .seqConcat { State.reset with phase := .concat, chunkTable := [⟨0x49484452#32, 8, 13#32⟩], ci := 1 })
      (fun t => (t.inflReq, t.phase)) = some (true, .inflate) := by decide

/-- R208's example, and V-DRV7. -/
theorem test_inflate_answers :
    after (exec .seqInflate { State.reset with
      phase := .inflate, inflReq := true, inflLen := 4, inflAnswer := some .ok })
      (fun t => (t.inflLen, t.inflReq, t.inflAnswer, t.phase)) = some (4, false, none, .lencheck) ∧
    after (exec .seqInflate { State.reset with phase := .inflate, inflReq := true, inflAnswer := some .fail }) errorOf =
      some (.error, 7, 0, 0) := by decide

/-- R208, R60, R284: the bytes stand in `INFL` in the state in which the answer is delivered, and it is given once; an input the
collaborator has no answer for leaves everything as it was. -/
theorem test_collaborator_writes_before_it_delivers :
    after (step { State.reset with
      phase := .inflate, inflReq := true, collab := [([], .ok [0#8, 10#8, 20#8, 30#8])], agenda := [.collaborator] })
      (fun t => (Memory.readBytes t.infl 0 4, t.inflLen, t.inflAnswer, t.phase, t.inflReq)) =
      some ([0#8, 10#8, 20#8, 30#8], 4, some .ok, .inflate, true) ∧
    after (step { State.reset with phase := .inflate, inflReq := true, collab := [([1#8], .fail)], agenda := [.collaborator] })
      (fun t => (t.inflAnswer, t.inflLen)) = some (none, 0) := by decide

/-! ### SEQ.LENCHECK -/

/-- In `LENCHECK` with the dimensions and the inflated length. -/
def withSize (w h : U32) (n : Nat) : State :=
  { State.reset with phase := .lencheck, hdrWidth := w, hdrHeight := h, inflLen := n, prevRow := [(0, 7#8)] }

/-- V-LEN4, V-LEN7, V-LEN8, V-LEN9: exact products. -/
theorem test_lencheck_exact :
    after (exec .seqLencheck (withSize 3#32 5#32 49)) errorOf = some (.error, 5, 49, 0) ∧
    after (exec .seqLencheck (withSize 4294967295#32 4294967295#32 100)) errorOf = some (.error, 5, 100, 0) ∧
    after (exec .seqLencheck (withSize 1431655765#32 1#32 4)) errorOf = some (.error, 5, 4, 0) ∧
    after (exec .seqLencheck (withSize 3579030188#32 1718039348#32 4)) errorOf = some (.error, 5, 4, 0) := by decide

/-- V-LEN1, V-LEN3, V-LEN5, V-LEN6. -/
theorem test_lencheck_passes :
    after (exec .seqLencheck (withSize 1#32 1#32 4)) (fun t => (t.need.toNat, t.rowBytes.toNat, t.prevRow, t.phase)) =
      some (4, 3, [], .rows) ∧
    after (exec .seqLencheck (withSize 1#32 1#32 7)) (fun t => t.phase) = some .rows ∧
    after (exec .seqLencheck (withSize 0#32 2#32 2)) (fun t => t.need.toNat) = some 2 ∧
    after (exec .seqLencheck (withSize 7#32 0#32 0)) (fun t => (t.need.toNat, t.phase)) = some (0, .rows) := by decide

/-! ### Rows -/

/-- V-ROW1, V-ROW14. -/
theorem test_rowNone :
    after (exec .rowNone (withRow 1 0 [] [0#8, 0x0A#8, 0x14#8, 0x1E#8])) rowOf = some [0x0A#8, 0x14#8, 0x1E#8] ∧
    after (exec .seqRows (withRow 1 0 [] [0#8, 5#8, 5#8, 5#8])) rowOf = some [5#8, 5#8, 5#8] := by decide

/-- V-ROW3. -/
theorem test_rowSub :
    after (exec .rowSub (withRow 3 1 [0xFA#8, 0x80#8, 3#8, 0x0A#8, 0xC8#8, 0xFF#8, 0#8, 1#8, 2#8]
      [1#8, 0x14#8, 0x1E#8, 0x28#8, 0xFA#8, 0xFA#8, 0xFA#8, 0x10#8, 0x10#8, 0x10#8])) rowOf =
      some [0x14#8, 0x1E#8, 0x28#8, 0x0E#8, 0x18#8, 0x22#8, 0x1E#8, 0x28#8, 0x32#8] := by decide

/-- V-ROW4. -/
theorem test_rowUp :
    after (exec .rowUp (withRow 3 2 [0x14#8, 0x1E#8, 0x28#8, 0x0E#8, 0x18#8, 0x22#8, 0x1E#8, 0x28#8, 0x32#8]
      [2#8, 0x0A#8, 0x64#8, 0xC8#8, 5#8, 5#8, 5#8, 0xFF#8, 0xFF#8, 0xFF#8])) rowOf =
      some [0x1E#8, 0x82#8, 0xF0#8, 0x13#8, 0x1D#8, 0x27#8, 0x1D#8, 0x27#8, 0x31#8] := by decide

/-- V-ROW6, V-ROW8. -/
theorem test_rowAvg :
    after (exec .rowAvg (withRow 3 3 [0x1E#8, 0x82#8, 0xF0#8, 0x13#8, 0x1D#8, 0x27#8, 0x1D#8, 0x27#8, 0x31#8]
      [3#8, 7#8, 8#8, 9#8, 0x64#8, 0x64#8, 0x64#8, 0xC8#8, 1#8, 0x82#8])) rowOf =
      some [0x16#8, 0x49#8, 0x81#8, 0x78#8, 0x97#8, 0xB8#8, 0x12#8, 0x60#8, 0xF6#8] ∧
    after (exec .rowAvg (withRow 2 1 [0xFF#8, 0xFF#8, 0xFF#8, 0xFF#8, 0xFF#8, 0xFF#8]
      [3#8, 0x80#8, 0x80#8, 0x80#8, 1#8, 1#8, 1#8])) rowOf = some [0xFF#8, 0xFF#8, 0xFF#8, 0#8, 0#8, 0#8] := by decide

/-- V-ROW9, V-ROW11. -/
theorem test_rowPaeth :
    after (exec .rowPaeth (withRow 3 4 [0x16#8, 0x49#8, 0x81#8, 0x78#8, 0x97#8, 0xB8#8, 0x12#8, 0x60#8, 0xF6#8]
      [4#8, 1#8, 2#8, 3#8, 4#8, 5#8, 6#8, 0xFA#8, 0x80#8, 0#8])) rowOf =
      some [0x17#8, 0x4B#8, 0x84#8, 0x7C#8, 0x9C#8, 0xBE#8, 0x0C#8, 0xE0#8, 0xF6#8] ∧
    after (exec .rowPaeth (withRow 2 1 [0x0A#8, 0x0A#8, 0x64#8, 0x0C#8, 6#8, 0x32#8]
      [4#8, 0xFC#8, 2#8, 0xC8#8, 1#8, 1#8, 1#8])) rowOf = some [6#8, 0x0C#8, 0x2C#8, 7#8, 7#8, 0x2D#8] := by decide

/-- V-ROW12, V-ROW13, V-ROW16. -/
theorem test_rowIllegal :
    after (exec .seqRows (withRow 1 1 [9#8, 9#8, 9#8] [5#8, 9#8, 9#8, 9#8])) errorOf = some (.error, 6, 1, 5) ∧
    after (exec (.rowIllegal 255#8) (withRow 1 0 [] [255#8, 0#8, 0#8, 0#8])) errorOf = some (.error, 6, 0, 255) ∧
    after (exec .seqRows (withRow 0 1 [] [9#8])) errorOf = some (.error, 6, 1, 9) := by decide

/-- V-PAE4 to V-PAE6, V-PAE10 to V-PAE14, V-PAE17 to V-PAE20. -/
theorem test_paeth :
    paeth 10#8 20#8 30#8 = 10#8 ∧ paeth 30#8 20#8 10#8 = 30#8 ∧ paeth 50#8 100#8 50#8 = 100#8 ∧ paeth 6#8 12#8 10#8 = 6#8 ∧
    paeth 12#8 6#8 10#8 = 6#8 ∧ paeth 5#8 5#8 0#8 = 5#8 ∧ paeth 0#8 0#8 255#8 = 0#8 ∧ paeth 255#8 255#8 0#8 = 255#8 ∧
    paeth 1#8 2#8 4#8 = 1#8 ∧ paeth 2#8 1#8 4#8 = 1#8 ∧ paeth 44#8 50#8 100#8 = 44#8 ∧ paeth 124#8 18#8 120#8 = 18#8 := by decide

/-- R171: the row goes to `GRID` at row 1's offset and to `PREV_ROW`; `ROW` advances (V-ROW2's record on row 1). -/
theorem test_rows_commit :
    after (exec .seqRows (withRow 2 1 [] [1#8, 5#8, 5#8, 5#8, 2#8, 2#8, 2#8]))
      (fun t => (Memory.readBytes t.grid 6 6, Memory.readBytes t.prevRow 0 6, t.row.toNat, t.ft)) =
      some ([5#8, 5#8, 5#8, 7#8, 7#8, 7#8], [5#8, 5#8, 5#8, 7#8, 7#8, 7#8], 2, 1#8) := by decide

/-! ### SEQ.ENDCHECK, the terminal phases, commands, reset, host -/

/-- R210's example, V-DRV12, V-DRV13. -/
theorem test_endcheck :
    after (exec .seqEndcheck { State.reset with phase := .endcheck, chunkTable := [⟨0x49454E44#32, 145, 0#32⟩] })
      (fun t => t.phase) = some .done ∧
    after (exec .seqEndcheck { State.reset with phase := .endcheck, chunkTable := [⟨0x49454E44#32, 145, 1#32⟩] }) errorOf =
      some (.error, 8, 4, 1) ∧
    after (exec (.chunkIhdr 13#32) { State.reset with phase := .endcheck, chunkTable := [⟨0x49484452#32, 8, 13#32⟩] }) errorOf =
      some (.error, 8, 3, 0x49484452) := by decide

theorem test_chunkIend_ends_decode :
    after (exec (.chunkIend 0#32) { State.reset with phase := .endcheck, chunkTable := [⟨0x49454E44#32, 145, 0#32⟩] })
      (fun t => t.phase) = some .done := by decide

/-- V-CMD1, V-CMD3 (0x4A), V-CMD5 (0xA9), V-CMD7 (0x95). -/
theorem test_status_bytes :
    State.reset.status = 0x00#8 ∧ { State.reset with phase := .error }.status = 0x4A#8 ∧
    { State.reset with phase := .done, hdrValid := true }.status = 0xA9#8 ∧
    { State.reset with phase := .inflate, hdrValid := true }.status = 0x95#8 := by decide

/-- V-CMD2 and V-CMD7: nothing changes. -/
theorem test_commands_without_effect :
    after (exec .cmdNop State.reset) (fun t => t) = some State.reset ∧
    after (exec .cmdReserved State.reset) (fun t => t) = some State.reset ∧
    after (exec .cmdStart { State.reset with phase := .inflate, pos := 9 }) (fun t => (t.phase, t.pos)) = some (.inflate, 9) ∧
    after (exec .cmdClear { State.reset with phase := .inflate, pos := 9 }) (fun t => (t.phase, t.pos)) = some (.inflate, 9) := by
  decide

/-- R201's example, V-CMD4, and R202: `BODY_LEN` stays. -/
theorem test_start_and_clear :
    after (step { State.reset with bodyLen := 61, agenda := [.writeReg 0#5 1] }) (fun t => (t.phase, t.pos, t.bodyLen)) =
      some (.frame, 0, 61) ∧
    after (step { State.reset with
      phase := .error, errCode := 8#4, errInfo0 := 1, bodyLen := 3, agenda := [.writeReg 0#5 2] })
      (fun t => (errorOf t, t.status, t.bodyLen)) = some ((.idle, 0, 0, 0), 0x00#8, 3) := by decide

/-- V-CMD8: reset while the collaborator is asked; a late answer is ignored. -/
theorem test_reset_drops_request :
    after (step { State.reset with phase := .inflate, inflReq := true, compLen := 4, agenda := [.reset] })
      (fun t => (t.phase, t.inflReq, t.compLen)) = some (.idle, false, 0) ∧
    after (step { State.reset with collab := [([], .fail)], agenda := [.collaborator] }) (fun t => (t.inflAnswer, t.phase)) =
      some (none, .idle) := by decide

/-- V-CMD9: the host's write of `BODY_LEN` in `ROWS` is ignored; in `IDLE` it is made. -/
theorem test_body_len_writes :
    after (step { State.reset with phase := .rows, agenda := [.writeReg 5#5 9] }) (fun t => t.bodyLen) = some 0 ∧
    after (step { State.reset with agenda := [.writeReg 5#5 9] }) (fun t => t.bodyLen) = some 9 := by decide

theorem test_terminal_phases_wait :
    after (exec .seqIdle State.reset) (fun t => t) = some State.reset ∧
    after (exec .seqDone { State.reset with phase := .done }) (fun t => t.phase) = some .done ∧
    after (exec .seqError { State.reset with phase := .error, errCode := 6#4 }) errorOf = some (.error, 6, 0, 0) := by decide

/-- A write of what an unlisted byte reads as removes the entry, and the form stays canonical. -/
theorem test_memory_canonical :
    Memory.write [(3, 5#8)] 3 0#8 = [] ∧ Memory.write [(3, 5#8)] 1 9#8 = [(1, 9#8), (3, 5#8)] ∧
    Memory.wf [(1, 9#8), (3, 5#8)] = true ∧ Memory.wf [(1, 0#8)] = false ∧ Memory.wf [(3, 5#8), (1, 9#8)] = false := by decide

/-! ### Witnesses: states of one decode

The body of vector V-DRV1: `IHDR(1, 1)`, an IDAT of `00 01 02 03`, an IEND, and the states of its decode. -/

def oneBody : List Byte :=
  [0#8, 0#8, 0#8, 13#8, 0x49#8, 0x48#8, 0x44#8, 0x52#8, 0#8, 0#8, 0#8, 1#8, 0#8, 0#8, 0#8, 1#8, 8#8, 2#8, 0#8, 0#8, 0#8] ++
  [0#8, 0#8, 0#8, 0#8, 0#8, 0#8, 0#8, 4#8, 0x49#8, 0x44#8, 0x41#8, 0x54#8, 0#8, 1#8, 2#8, 3#8, 0#8, 0#8, 0#8, 0#8] ++
  [0#8, 0#8, 0#8, 0#8, 0x49#8, 0x45#8, 0x4E#8, 0x44#8, 0#8, 0#8, 0#8, 0#8]

def oneTable : List ChunkEntry := [⟨0x49484452#32, 8, 13#32⟩, ⟨0x49444154#32, 33, 4#32⟩, ⟨0x49454E44#32, 49, 0#32⟩]

/-- In `FRAME`, the first record framed. -/
def framing : State :=
  { withBody .frame oneBody with pos := 25, chunkTable := [⟨0x49484452#32, 8, 13#32⟩], chStart := 0, len := 13#32 }

/-- In `HEADER`, all framed. -/
def framedAll : State := { withBody .header oneBody with pos := 53, chunkTable := oneTable }

/-- In `CONCAT`, chunk 0 examined. -/
def concatenating : State :=
  { framedAll with
    phase := .concat, hdrValid := true, hdrWidth := 1#32, hdrHeight := 1#32, hdrBitDepth := 8#8, hdrColorType := 2#8, ci := 1 }

/-- In `INFLATE`, the request made. -/
def asking : State :=
  { concatenating with
    phase := .inflate, ci := 3, comp := memOf [0#8, 1#8, 2#8, 3#8], compLen := 4, inflReq := true
    collab := [([0#8, 1#8, 2#8, 3#8], .ok [0#8, 1#8, 2#8, 3#8])] }

/-- In `INFLATE`, the answer given. -/
def answered : State :=
  { asking with infl := memOf [0#8, 1#8, 2#8, 3#8], inflLen := 4, inflAnswer := some .ok }

/-- In `ROWS`, the one row to do. -/
def rowing : State :=
  { asking with
    phase := .rows, inflReq := false, infl := memOf [0#8, 1#8, 2#8, 3#8], inflLen := 4, need := 4#66, rowBytes := 3#34 }

/-- In `DONE`. -/
def finished : State :=
  { rowing with
    phase := .done, row := 1#33, curRow := memOf [1#8, 2#8, 3#8], prevRow := memOf [1#8, 2#8, 3#8]
    grid := memOf [1#8, 2#8, 3#8] }

/-- In `ERROR`, as vector V-DRV8 leaves it. -/
def failed : State := { withBody .error [0#8] with errCode := 5#4, errInfo0 := 7 }

/-- R21, R213: after the end the host reads the header and the image. -/
theorem test_host_reads_the_result :
    (∃ t, step { finished with agenda := [.readReg 7#5] } = .next t ∧ t.hostRead = 1) ∧
    ∃ t, step { finished with agenda := [.readGrid 2] } = .next t ∧ t.hostRead = 3 :=
  ⟨⟨_, rfl, by decide⟩, _, rfl, by decide⟩

/-- R21, U24: a reserved index reads 0 in any phase. -/
theorem test_host_reads_reserved_index : ∃ t, step { failed with agenda := [.readReg 17#5] } = .next t ∧ t.hostRead = 0 :=
  ⟨_, rfl, by decide⟩

theorem framing_controlInv : framing.ControlInv := by
  constructor <;> first | decide | (refine fun _ => ⟨⟨rfl, rfl⟩, ?_⟩; decide)

theorem concatenating_controlInv : concatenating.ControlInv := by
  constructor <;> first | decide | (refine fun _ => ⟨⟨rfl, rfl, rfl, rfl⟩, ?_⟩; decide)

theorem answered_controlInv : answered.ControlInv := by
  constructor <;> first | decide | (refine fun _ => ⟨⟨rfl, rfl, rfl, rfl⟩, ?_⟩; decide)

theorem rowing_controlInv : rowing.ControlInv := by
  constructor <;> first | decide | (refine fun _ => ⟨⟨rfl, rfl, rfl, rfl⟩, ?_⟩; decide)

theorem finished_controlInv : finished.ControlInv := by
  constructor <;> first | decide | exact fun _ _ => ⟨_, rfl, rfl, rfl⟩ | exact fun _ => ⟨_, rfl, rfl, rfl⟩ |
    (intros; contradiction)

theorem failed_controlInv : failed.ControlInv := by
  constructor <;> first | decide | (intros; contradiction)

theorem rowing_gridInv : rowing.GridInv := by
  refine fun _ _ => ⟨fun r hr => absurd hr (by simp [rowing, asking, concatenating, framedAll, withBody, State.reset]), fun _ i _ => ?_⟩
  rfl

theorem finished_row_zero : finished.RowReconstructed 0 := by
  constructor <;> decide

theorem finished_gridInv : finished.GridInv := by
  refine fun _ _ => ⟨fun r hr => ?_, fun h => by cases h⟩
  have h0 : r = 0 := by
    have : finished.row.toNat = 1 := by decide
    omega
  rw [h0]
  exact finished_row_zero

theorem framing_tableInv : framing.TableInv := by
  unfold State.TableInv
  decide

theorem concatenating_compInv : concatenating.CompInv := by
  constructor <;> decide

/-! ### Witnesses: one per statement with hypotheses, each clause with its own, at the ends of its range -/

theorem witness_ResetEventRestoresEveryRegister :
    { asking with agenda := [.reset, .collaborator] }.agenda = .reset :: [.collaborator] := rfl

theorem witness_StatusIsAFunctionOfPhaseAndHdrValid :
    rowing.phase = (withRow 1 0 [] []).phase ∧ rowing.hdrValid = { (withRow 1 0 [] []) with hdrValid := true }.hdrValid := by decide

theorem witness_RegisterMapReadsAndIgnoredWrites :
    17 ≤ (17#5).toNat ∧ 17 ≤ (31#5).toNat ∧ (1#5 ≠ 0#5 ∧ 1#5 ≠ 5#5) ∧ (31#5 ≠ 0#5 ∧ 31#5 ≠ 5#5) ∧
    { asking with agenda := [.writeReg 1#5 7] }.agenda = .writeReg 1#5 7 :: [] ∧
    { State.reset with agenda := [.writeReg 5#5 7] }.busy = false ∧ { asking with agenda := [.writeReg 5#5 7] }.busy = true := by
  decide

theorem witness_HostAccessesReachOnlyTheirByte :
    ({ finished with agenda := [.readReg 6#5] }.agenda = [.readReg 6#5] ∧ finished.busy = false ∧ finished.phase ≠ .error) ∧
    ({ framing with agenda := [.readReg 5#5] }.agenda = [.readReg 5#5] ∧ (5#5).toNat < 6 ∧ 15 < (16#5).toNat) ∧
    ({ framing with agenda := [.readBody 0] }.agenda = [.readBody 0] ∧ 0 < framing.bodyLen) ∧
    ({ finished with agenda := [.readGrid 2] }.agenda = [.readGrid 2] ∧ finished.phase = .done ∧
      2 < 3 * finished.hdrWidth.toNat * finished.hdrHeight.toNat) ∧
    ({ failed with agenda := [.writeBody 0 0#8] }.body.wf = true ∧ { failed with agenda := [.writeBody 0 0#8] }.busy = false) ∧
    { framing with agenda := [.writeBody 0 9#8] }.busy = true := by decide

/-- From `IDLE`, `DONE` and `ERROR`; the first and the last busy phase. -/
theorem witness_StartBeginsANewDecode :
    State.reset.busy = false ∧ finished.busy = false ∧ failed.busy = false ∧ framing.busy = true ∧
    { State.reset with phase := .endcheck }.busy = true := by decide

theorem witness_ClearReturnsToIdle :
    State.reset.busy = false ∧ finished.busy = false ∧ failed.busy = false ∧ framing.busy = true ∧
    { State.reset with phase := .endcheck }.busy = true := by decide

theorem witness_NopReservedAndBusyCommandsDoNothing :
    asking.busy = true ∧ { asking with agenda := [.writeReg 0#5 1] }.agenda = .writeReg 0#5 1 :: [] ∧ 0 % 4 = 0 ∧ 3 % 4 = 3 := by
  decide

theorem witness_IdleIsLeftOnlyByStart :
    State.reset.phase = .idle ∧ ∃ t, step { State.reset with agenda := [.writeReg 0#5 1] } = .next t ∧ t.phase ≠ .idle :=
  ⟨rfl, _, rfl, by decide⟩

theorem witness_StepRunsTheFetchedInstruction :
    decode .phase [asking.phase.code.setWidth 8] = .ok (.seqInflate, []) ∧ asking.agenda = [] ∧
    { asking with agenda := [.sequencer] }.agenda = .sequencer :: [] ∧
    { asking with agenda := [.writeReg 0#5 1] }.agenda = .writeReg 0#5 1 :: [] ∧
    decode .cmd [BitVec.ofNat 8 1] = .ok (.cmdStart, []) := by decide

theorem witness_FrameStepRunsTheChunkAtPos :
    framing.phase = .frame ∧ framing.pos ≠ framing.bodyLen ∧
    decode .chunk (Memory.readBytes framing.body framing.pos (framing.bodyLen - framing.pos)) =
      .ok (.chunkIdat 4#32, Memory.readBytes framing.body 33 20) := by decide

theorem witness_RowsStepRunsTheRowOfItsFilterByte :
    rowing.row.toNat ≠ rowing.hdrHeight.toNat ∧
    decode .row [Memory.read rowing.infl (rowing.row.toNat * (1 + rowing.rowBytes.toNat))] = .ok (.rowNone, []) := by decide

theorem witness_HeaderConcatEndcheckRunTheirChunk :
    (framedAll.phase = .header ∧ framedAll.chunkTable.head? = some ⟨0x49484452#32, 8, 13#32⟩) ∧
    (concatenating.phase = .concat ∧ concatenating.ci ≠ concatenating.chunkTable.length ∧
      concatenating.chunkTable[concatenating.ci]? = some ⟨0x49444154#32, 33, 4#32⟩) ∧
    ({ rowing with phase := .endcheck }.phase = .endcheck ∧
      { rowing with phase := .endcheck }.chunkTable.getLast? = some ⟨0x49454E44#32, 49, 0#32⟩) := by decide

theorem witness_CursorReadsOrIsOutOfBounds :
    (5 ≤ 5 ∧ 5 - 5 < 4 ∧ 5 - 5 < 1) ∧ (2 ≤ 5 ∧ 5 - 2 < 4 ∧ 1 ≤ 5 - 2) ∧ (1 ≤ 5 ∧ 4 ≤ 5 - 1) := by decide

theorem witness_CursorLawsHold :
    1 ≤ 5 ∧ (∀ a, 1 ≤ a → a < 5 → Memory.read [(5, 1#8)] a = Memory.read [(0, 2#8)] a) ∧
    cursorU32 [(5, 1#8)] 5 1 = .ok (0#32, 5) ∧ cursorU8 [(5, 1#8)] 5 4 = .ok (0#8, 5) := by
  refine ⟨by decide, fun a h1 h2 => ?_, by decide, by decide⟩
  have : a = 1 ∨ a = 2 ∨ a = 3 ∨ a = 4 := by omega
  rcases this with rfl | rfl | rfl | rfl <;> rfl

theorem witness_ReadU32InstructionCompletes : (1 ≤ 5 ∧ 4 ≤ 5 - 1) ∧ (2 ≤ 5 ∧ 5 - 2 < 4) ∧ (5 ≤ 5 ∧ 5 - 5 < 4) := by decide

theorem witness_ReadU8InstructionCompletes : (4 ≤ 5 ∧ 1 ≤ 5 - 4) ∧ (5 ≤ 5 ∧ 5 - 5 < 1) := by decide

/-- The ends of the clauses: all read; 1 and 3 bytes left; 4 and 11 left; a record that just fits. -/
theorem witness_FrameStepFramesOneRecordOrFails :
    framedAll.pos = framedAll.bodyLen ∧
    (let s := withBody .frame [9#8]; s.pos ≤ s.bodyLen ∧ 1 ≤ s.bodyLen - s.pos ∧ s.bodyLen - s.pos ≤ 3) ∧
    (let s := withBody .frame [0#8, 0#8, 0#8]; 1 ≤ s.bodyLen - s.pos ∧ s.bodyLen - s.pos ≤ 3) ∧
    (let s := withBody .frame [0#8, 0#8, 0#8, 0#8];
      4 ≤ s.bodyLen - s.pos ∧ (Memory.read4 s.body s.pos).toNat + 12 > s.bodyLen - s.pos) ∧
    (let s := withBody .frame (List.replicate 11 0#8);
      4 ≤ s.bodyLen - s.pos ∧ (Memory.read4 s.body s.pos).toNat + 12 > s.bodyLen - s.pos) ∧
    (let s := withBody .frame (List.replicate 12 0#8); (Memory.read4 s.body s.pos).toNat + 12 ≤ s.bodyLen - s.pos) := by decide

theorem witness_ChunkInstructionsFrameEveryTypeAlike :
    framing.phase = .frame ∧ (16#32).toNat + 12 ≤ framing.bodyLen - framing.pos ∧
    (17#32).toNat + 12 > framing.bodyLen - framing.pos := by decide

theorem witness_ChunkInstructionsByPosition :
    (framedAll.phase = .header ∧ framedAll.chunkTable ≠ []) ∧
    (concatenating.phase = .concat ∧ concatenating.ci < concatenating.chunkTable.length) ∧
    ({ rowing with phase := .endcheck }.phase = .endcheck ∧ { rowing with phase := .endcheck }.chunkTable ≠ []) := by decide

theorem witness_NamedChunksHaveTheirEffect :
    (framedAll.phase = .header ∧ framedAll.chunkTable.head? = some ⟨0x49484452#32, 8, 13#32⟩ ∧ 12#32 ≠ 13#32) ∧
    (concatenating.phase = .concat ∧ concatenating.comp.wf = true ∧
      concatenating.chunkTable[concatenating.ci]? = some ⟨0x49444154#32, 33, 4#32⟩) ∧
    ({ rowing with phase := .endcheck }.phase = .endcheck ∧
      { rowing with phase := .endcheck }.chunkTable.getLast? = some ⟨0x49454E44#32, 49, 0#32⟩ ∧ 1#32 ≠ 0#32) := by decide

theorem witness_HeaderStepChecksThenExtracts :
    State.reset.chunkTable = [] ∧ framedAll.chunkTable = ⟨0x49484452#32, 8, 13#32⟩ :: oneTable.tail ∧
    0x69686472#32 ≠ 0x49484452#32 ∧ 12#32 ≠ 13#32 ∧ 14#32 ≠ 13#32 := by decide

/-- Field by field, the first unsupported one. -/
theorem witness_ValidateNamesTheFirstUnsupportedField :
    (withFormat 16#8 6#8 0#8 0#8 1#8).hdrBitDepth ≠ 8#8 ∧
    (let s := withFormat 8#8 6#8 0#8 0#8 0#8; s.hdrBitDepth = 8#8 ∧ s.hdrColorType ≠ 2#8) ∧
    (let s := withFormat 8#8 2#8 1#8 0#8 0#8; s.hdrBitDepth = 8#8 ∧ s.hdrColorType = 2#8 ∧ s.hdrCompression ≠ 0#8) ∧
    (let s := withFormat 8#8 2#8 0#8 1#8 0#8; s.hdrColorType = 2#8 ∧ s.hdrCompression = 0#8 ∧ s.hdrFilter ≠ 0#8) ∧
    (let s := withFormat 8#8 2#8 0#8 0#8 255#8; s.hdrCompression = 0#8 ∧ s.hdrFilter = 0#8 ∧ s.hdrInterlace ≠ 0#8) ∧
    (let s := withFormat 8#8 2#8 0#8 0#8 0#8; s.hdrBitDepth = 8#8 ∧ s.hdrFilter = 0#8 ∧ s.hdrInterlace = 0#8) := by decide

theorem witness_ConcatAppendsImageDataOrPassesOver :
    concatenating.comp.wf = true ∧ { concatenating with ci := 3 }.ci = { concatenating with ci := 3 }.chunkTable.length ∧
    (concatenating.ci ≠ concatenating.chunkTable.length ∧
      concatenating.chunkTable[concatenating.ci]? = some ⟨0x49444154#32, 33, 4#32⟩) ∧
    ({ concatenating with ci := 2 }.chunkTable[{ concatenating with ci := 2 }.ci]? = some ⟨0x49454E44#32, 49, 0#32⟩ ∧
      0x49454E44#32 ≠ 0x49444154#32) := by decide

theorem witness_InflateWaitsThenTakesTheAnswer :
    asking.inflAnswer = none ∧ answered.inflAnswer = some .ok ∧
    { asking with inflAnswer := some .fail }.inflAnswer = some .fail := by decide

/-- The two clauses of the guard; the three answers; the twin clause on states that differ in `HDR_WIDTH` and in `COMP` past the
submitted bytes. -/
theorem witness_CollaboratorAnswersAFunctionOfComp :
    (rowing.inflReq = false ∧ answered.inflAnswer ≠ none ∧ { answered with agenda := [.collaborator] }.agenda = [.collaborator]) ∧
    (asking.inflReq = true ∧ asking.inflAnswer = none ∧ asking.infl.wf = true ∧
      answerFor asking.collab (Memory.readBytes asking.comp 0 asking.compLen) = some (.ok [0#8, 1#8, 2#8, 3#8]) ∧
      answerFor [] (Memory.readBytes asking.comp 0 asking.compLen) = none ∧
      answerFor [([0#8, 1#8, 2#8, 3#8], .fail)] (Memory.readBytes asking.comp 0 asking.compLen) = some .fail) := by decide

theorem witness_CollaboratorAnswersAFunctionOfComp_twin :
    let s := { asking with agenda := [.collaborator] }
    let t := { asking with agenda := [.collaborator], hdrWidth := 9#32, comp := memOf [0#8, 1#8, 2#8, 3#8, 4#8] }
    s.agenda = .collaborator :: [] ∧ t.agenda = .collaborator :: [] ∧ (s.inflReq = true ∧ t.inflReq = true) ∧
      (s.inflAnswer = none ∧ t.inflAnswer = none) ∧ s.collab = t.collab ∧ (s.infl.wf = true ∧ t.infl.wf = true) ∧
      s.compLen = t.compLen ∧ (∀ i, i < s.compLen → Memory.read s.comp i = Memory.read t.comp i) ∧
      ∃ s' t', step s = .next s' ∧ step t = .next t' ∧ s'.inflAnswer = some .ok :=
  ⟨rfl, rfl, by decide, by decide, rfl, by decide, rfl, by decide, _, _, rfl, rfl, by decide⟩

/-- One byte short, exactly enough; and a height of 0. -/
theorem witness_LengthCheckIsExact :
    (withSize 3#32 5#32 49).inflLen < (withSize 3#32 5#32 49).hdrHeight.toNat * (1 + 3 * (withSize 3#32 5#32 49).hdrWidth.toNat) ∧
    (withSize 3#32 5#32 50).hdrHeight.toNat * (1 + 3 * (withSize 3#32 5#32 50).hdrWidth.toNat) ≤ (withSize 3#32 5#32 50).inflLen ∧
    (withSize 7#32 0#32 0).hdrHeight.toNat * (1 + 3 * (withSize 7#32 0#32 0).hdrWidth.toNat) ≤ (withSize 7#32 0#32 0).inflLen := by
  decide

theorem witness_RowsEndOrRejectTheFilterByte :
    { rowing with row := 1#33 }.row.toNat = { rowing with row := 1#33 }.hdrHeight.toNat ∧
    (let s := withRow 1 1 [9#8, 9#8, 9#8] [5#8, 9#8, 9#8, 9#8]
     s.row.toNat ≠ s.hdrHeight.toNat ∧ 5#8 = Memory.read s.infl (s.row.toNat * (1 + s.rowBytes.toNat)) ∧ 4 < (5#8).toNat) := by
  decide

theorem witness_RowInstructionsReconstructEverySample :
    finished.curRow.wf = true ∧ 0 < finished.rowBytes.toNat ∧
    (Instr.rowPaeth = .rowPaeth ∧ paeth = paeth) := ⟨by decide, by decide, rfl, rfl⟩

theorem witness_RowInstructionsCommitTheRowAndNothingElse :
    finished.memoriesCanonical = true ∧ (Instr.rowAvg = .rowAvg ∧ 3#8 = 3#8) := by decide

/-- The three results: `a` (a tie with `c`), `b` (a tie with `c`), `c`. -/
theorem witness_PaethIsTheThreeNeighbourPredictor :
    ((8 : Int) = 6 + 12 - 10 ∧ (2 : Int) = |8 - 6| ∧ (4 : Int) = |8 - 12| ∧ (2 : Int) = |8 - 10| ∧ (2 : Int) ≤ 4 ∧ (2 : Int) ≤ 2) ∧
    ((8 : Int) = 12 + 6 - 10 ∧ (4 : Int) = |8 - 12| ∧ (2 : Int) = |8 - 6| ∧ ¬ ((4 : Int) ≤ 2 ∧ (4 : Int) ≤ 2) ∧ (2 : Int) ≤ 2) ∧
    ((15 : Int) = 10 + 20 - 15 ∧ (5 : Int) = |15 - 10| ∧ (0 : Int) = |15 - 15| ∧ ¬ ((5 : Int) ≤ 5 ∧ (5 : Int) ≤ 0) ∧ ¬ (5 : Int) ≤ 0) := by
  decide

theorem witness_PaethTieBreakIsFixed :
    12#8 ≠ 6#8 ∧ (|(12 : Int) - 10| = |(6 : Int) + 12 - 2 * 10| ∧ |(12 : Int) - 10| < |(6 : Int) - 10|) ∧
    (|(12 : Int) - 10| = |(12 : Int) + 6 - 2 * 10| ∧ |(12 : Int) - 10| < |(6 : Int) - 10|) ∧
    (10#8 ≠ 20#8 ∧ |(20 : Int) - 15| = |(10 : Int) - 15| ∧ 0 < |(20 : Int) - 15|) := by decide

theorem witness_FirstRowAndFirstColumnDegenerate :
    rowing.curRow.wf = true ∧
    (∃ n u b p, exec .rowNone rowing = .next n ∧ exec .rowUp rowing = .next u ∧ exec .rowSub rowing = .next b ∧
      exec .rowPaeth rowing = .next p) ∧
    (∀ i, i < (withRow 2 0 [] []).rowBytes.toNat → Memory.read (withRow 2 0 [] []).prevRow i = 0#8) ∧
    2 < (withRow 2 0 [] []).rowBytes.toNat :=
  ⟨by decide, ⟨_, _, _, _, rfl, rfl, rfl, rfl⟩, by decide, by decide⟩

/-- The row `14 1E 28 0E 18 22` filtered by its left neighbours (V-ROW3). -/
theorem witness_ReconstructionInvertsFiltering :
    let s := withRow 2 0 [] [1#8, 0x14#8, 0x1E#8, 0x28#8, 0xFA#8, 0xFA#8, 0xFA#8]
    let x := fun i => Memory.read (memOf [0x14#8, 0x1E#8, 0x28#8, 0x0E#8, 0x18#8, 0x22#8]) i
    s.curRow.wf = true ∧ (1#8).toNat ≤ 4 ∧ decode .row [1#8] = .ok (.rowSub, []) ∧
    (∀ i, i < s.rowBytes.toNat →
      Memory.read s.infl (s.row.toNat * (1 + s.rowBytes.toNat) + 1 + i) =
        x i - predictorOf 1#8 (if 3 ≤ i then x (i - 3) else 0#8) (Memory.read s.prevRow i)
          (if 3 ≤ i then Memory.read s.prevRow (i - 3) else 0#8)) ∧
    ∃ t, exec .rowSub s = .next t :=
  ⟨by decide, by decide, by decide, by decide, _, rfl⟩

/-- Two states that differ in `CUR_ROW` and in `INFL` past the record. -/
theorem witness_RowDependsOnlyOnItsRecordAndThePreviousRow :
    let t := { rowing with curRow := memOf [9#8], infl := memOf [4#8, 1#8, 2#8, 3#8, 7#8] }
    rowing.memoriesCanonical = true ∧ t.memoriesCanonical = true ∧ rowing.rowBytes = t.rowBytes ∧ rowing.row = t.row ∧
    (∀ i, i < rowing.rowBytes.toNat →
      Memory.read rowing.infl (rowing.row.toNat * (1 + rowing.rowBytes.toNat) + 1 + i) =
        Memory.read t.infl (rowing.row.toNat * (1 + rowing.rowBytes.toNat) + 1 + i)) ∧
    (∀ i, i < rowing.rowBytes.toNat → Memory.read rowing.prevRow i = Memory.read t.prevRow i) ∧
    ∃ s' t', exec .rowPaeth rowing = .next s' ∧ exec .rowPaeth t = .next t' :=
  ⟨by decide, by decide, by decide, by decide, by decide, by decide, _, _, rfl, rfl⟩

theorem witness_EndCheckWantsAnEmptyEndMarkerLast :
    rowing.chunkTable.getLast? = some ⟨0x49454E44#32, 49, 0#32⟩ ∧
    [(⟨0x49454E44#32, 49, 1#32⟩ : ChunkEntry)].getLast? = some ⟨0x49454E44#32, 49, 1#32⟩ ∧ 1#32 ≠ 0#32 ∧
    (concatenating.chunkTable.take 2).getLast? = some ⟨0x49444154#32, 33, 4#32⟩ ∧ 0x49444154#32 ≠ 0x49454E44#32 := by decide

theorem witness_DoneAndErrorAreTerminal :
    (finished.phase = .done ∧ finished.agenda = []) ∧ (failed.phase = .error ∧ failed.agenda = []) ∧
    { finished with agenda := [.sequencer] }.agenda = [.sequencer] := by decide

/-- `DONE` left by each of the three, and kept by a host read and a write of `BODY_LEN`. -/
theorem witness_DoneAndErrorAreTerminal_steps :
    (∃ t, step { finished with agenda := [.writeReg 0#5 1] } = .next t ∧ t.phase = .frame) ∧
    (∃ t, step { finished with agenda := [.writeReg 0#5 2] } = .next t ∧ t.phase = .idle) ∧
    (∃ t, step { finished with agenda := [.reset] } = .next t ∧ t.phase = .idle) ∧
    ∃ t, step { finished with agenda := [.writeReg 5#5 7] } = .next t ∧ t.phase = .done :=
  ⟨⟨_, rfl, rfl⟩, ⟨_, rfl, rfl⟩, ⟨_, rfl, rfl⟩, _, rfl, rfl⟩

theorem witness_RaisingStepKeepsNothingElse :
    let s := withRow 1 1 [9#8, 9#8, 9#8] [5#8, 9#8, 9#8, 9#8]
    decodePhase s.phase.code = .ok .seqRows ∧ s.phase ≠ .error ∧ ∃ t, exec .seqRows s = .next t ∧ t.phase = .error :=
  ⟨by decide, by decide, _, rfl, rfl⟩

theorem witness_ErrorIsLeftOnlyByClearStartOrReset :
    failed.phase = .error ∧ (∃ t, step { failed with agenda := [.writeReg 0#5 2] } = .next t) ∧
    (∃ t, step { failed with agenda := [.writeReg 0#5 1] } = .next t) ∧ ∃ t, step { failed with agenda := [.reset] } = .next t :=
  ⟨rfl, ⟨_, rfl⟩, ⟨_, rfl⟩, _, rfl⟩

theorem witness_ResultOnlyAtTheEndOfARun : failed.phase = .error ∧ finished.phase = .done ∧ rowing.phase ≠ .done := by decide

theorem witness_EveryStepKeepsMemoriesCanonical : rowing.memoriesCanonical = true ∧ ∃ t, step rowing = .next t :=
  ⟨by decide, _, rfl⟩

theorem witness_EveryStepKeepsTheControlInvariant : rowing.ControlInv ∧ ∃ t, step rowing = .next t :=
  ⟨rowing_controlInv, _, rfl⟩

theorem witness_TableEntriesAreTheRecordsOfBody : framing.TableInv ∧ framing.busy = true ∧ ∃ t, step framing = .next t :=
  ⟨framing_tableInv, by decide, _, rfl⟩

theorem witness_CompIsTheConcatenationOfImageData :
    concatenating.memoriesCanonical = true ∧ concatenating.CompInv ∧ ∃ t, step concatenating = .next t :=
  ⟨by decide, concatenating_compInv, _, rfl⟩

theorem witness_GridIsTheReconstructionOfInflatedRows :
    rowing.memoriesCanonical = true ∧ rowing.ControlInv ∧ rowing.GridInv ∧ ∃ t, step rowing = .next t :=
  ⟨by decide, rowing_controlInv, rowing_gridInv, _, rfl⟩

theorem witness_DoneImageIsReconstructed :
    finished.ControlInv ∧ finished.GridInv ∧ finished.phase = .done ∧ 0 < finished.hdrHeight.toNat ∧ 2 < 3 * finished.hdrWidth.toNat ∧
    0#8 = Memory.read finished.infl (0 * (1 + 3 * finished.hdrWidth.toNat)) :=
  ⟨finished_controlInv, finished_gridInv, by decide, by decide, by decide, by decide⟩

theorem witness_RecordsStayWithinValidRanges :
    (rowing.ControlInv ∧ rowing.phase = .rows ∧ rowing.row.toNat ≠ rowing.hdrHeight.toNat) ∧
    (framing.ControlInv ∧ framing.busy = true ∧ (⟨0x49484452#32, 8, 13#32⟩ : ChunkEntry) ∈ framing.chunkTable) ∧
    (concatenating.ControlInv ∧ 2 ≤ concatenating.phase.code.toNat ∧ concatenating.phase.code.toNat ≤ 8) :=
  ⟨⟨rowing_controlInv, by decide, by decide⟩, ⟨framing_controlInv, by decide, by decide⟩, concatenating_controlInv, by decide,
    by decide⟩

theorem witness_OnlyTheHostWritesTheBody :
    (∃ t, step { failed with agenda := [.writeBody 0 9#8] } = .next t ∧ t.body ≠ failed.body) ∧
    (∃ t, step { failed with agenda := [.writeReg 5#5 9] } = .next t ∧ t.bodyLen ≠ failed.bodyLen) ∧
    ∃ t, step { failed with agenda := [.reset] } = .next t ∧ t.bodyLen ≠ failed.bodyLen :=
  ⟨⟨_, rfl, by decide⟩, ⟨_, rfl, by decide⟩, _, rfl, by decide⟩

theorem witness_HeaderIsNotMutatedAfterConstruction :
    (∃ t, step framedAll = .next t ∧ t.hdrWidth ≠ framedAll.hdrWidth) ∧
    (∃ t, step { finished with agenda := [.writeReg 0#5 2] } = .next t ∧ t.hdrBitDepth ≠ finished.hdrBitDepth) ∧
    ∃ t, step { rowing with agenda := [.reset] } = .next t ∧ t.hdrColorType ≠ rowing.hdrColorType :=
  ⟨⟨_, rfl, by decide⟩, ⟨_, rfl, by decide⟩, _, rfl, by decide⟩

theorem witness_EachMemoryIsWrittenByItsStageAlone :
    (rowing.agenda.head? ≠ some .reset ∧ ∃ t, step rowing = .next t ∧ t.grid ≠ rowing.grid ∧ t.curRow ≠ rowing.curRow) ∧
    (∃ t, step framing = .next t ∧ t.chunkTable ≠ framing.chunkTable) ∧
    (∃ t, step concatenating = .next t ∧ t.comp ≠ concatenating.comp) ∧
    ∃ t, step { asking with agenda := [.collaborator] } = .next t ∧ t.infl ≠ asking.infl :=
  ⟨⟨by decide, _, rfl, by decide, by decide⟩, ⟨_, rfl, by decide⟩, ⟨_, rfl, by decide⟩, _, rfl, by decide⟩

theorem witness_PosNeverDecreasesDuringADecode :
    framing.ControlInv ∧ framing.busy = true ∧ framing.agenda = [] ∧ framing.phase = .frame ∧
    ∃ t, step framing = .next t ∧ t.busy = true ∧ t.phase = .frame :=
  ⟨framing_controlInv, by decide, rfl, rfl, _, rfl, by decide, by decide⟩

/-- The control invariant says nothing of the turns to come, so it holds with a turn waiting too. -/
theorem controlInv_withAgenda {s : State} (h : s.ControlInv) (turns : List Turn) : { s with agenda := turns }.ControlInv :=
  ⟨h.errorPhase, h.errorCode, h.errorInfo, h.request, h.answer, h.header, h.framed, h.framedAll, h.firstChunk, h.format, h.concat,
    h.concatAll, h.lengths, h.rows, h.rowsAll, h.lastChunk⟩

theorem witness_PosNeverDecreasesDuringADecode_turn :
    let s := { framing with agenda := [.sequencer] }
    s.ControlInv ∧ s.busy = true ∧ s.agenda = .sequencer :: [] ∧ s.phase = .frame ∧
      ∃ t, step s = .next t ∧ t.busy = true ∧ t.phase = .frame :=
  ⟨controlInv_withAgenda framing_controlInv _, by decide, rfl, rfl, _, rfl, by decide, by decide⟩

theorem witness_EveryBusyStepCompletesAndMakesProgress_turn :
    let s := { answered with agenda := [.sequencer, .collaborator] }
    s.ControlInv ∧ s.busy = true ∧ s.agenda = .sequencer :: [.collaborator] ∧ s.inflAnswer ≠ none :=
  ⟨controlInv_withAgenda answered_controlInv _, by decide, rfl, by decide⟩

theorem witness_EveryBusyStepCompletesAndMakesProgress :
    (answered.ControlInv ∧ answered.busy = true ∧ answered.agenda = [] ∧ answered.inflAnswer ≠ none) ∧
    (rowing.ControlInv ∧ rowing.busy = true ∧ rowing.phase ≠ .inflate) :=
  ⟨⟨answered_controlInv, by decide, rfl, by decide⟩, rowing_controlInv, by decide, by decide⟩

theorem witness_PhasesOccurInOneOrder :
    decodePhase framedAll.phase.code = .ok .seqHeader ∧ ∃ t, exec .seqHeader framedAll = .next t ∧ t.phase = .validate :=
  ⟨by decide, _, rfl, by decide⟩

/-- A state that differs from `rowing` in scratch registers, in bytes outside the valid ranges, and in rows not yet written. -/
def rowingStale : State :=
  { rowing with
    chStart := 7, len := 9#32, typ := 5#32, ft := 3#8, hdrPos := 1, hostRead := 4, curRow := memOf [8#8], grid := memOf [9#8, 9#8]
    comp := memOf [0#8, 1#8, 2#8, 3#8, 4#8], infl := memOf [0#8, 1#8, 2#8, 3#8, 4#8], prevRow := [(3, 1#8)] }

theorem rowing_sameDecode : rowing.SameDecode rowingStale := by
  constructor <;> first | rfl | (unfold AgreeOn; decide)

theorem witness_StaleContentsNeverInfluenceADecode :
    (failed.ControlInv ∧ finished.ControlInv ∧ failed.busy = false ∧ finished.busy = false ∧
      { failed with body := finished.body, bodyLen := finished.bodyLen, collab := finished.collab }.ControlInv) ∧
    (rowing.SameDecode rowingStale ∧ rowing.ControlInv ∧ rowing.memoriesCanonical = true ∧ rowingStale.memoriesCanonical = true ∧
      ∃ s', step rowing = .next s') :=
  ⟨⟨failed_controlInv, finished_controlInv, by decide, by decide, by constructor <;> first | decide | (intros; contradiction)⟩,
    rowing_sameDecode, rowing_controlInv, by decide, by decide, _, rfl⟩

/-- The last clause in `DONE`: the image is the same whatever the row buffers hold. -/
theorem witness_StaleContentsNeverInfluenceADecode_result :
    finished.SameDecode { finished with chStart := 7, curRow := [], prevRow := [], freeCount := 3 } ∧ finished.ControlInv ∧
      finished.result ≠ none := by
  refine ⟨?_, finished_controlInv, by decide⟩
  constructor <;> first | rfl | (intros; contradiction) | (unfold AgreeOn; decide)

theorem witness_DecodeOfEncodeIsTheInstruction :
    (Instr.chunkOther 0xFFFFFFFF#32 0x74455874#32).wellFormed = true ∧
    encode (.chunkOther 0xFFFFFFFF#32 0x74455874#32) =
      some (.chunk, [255#8, 255#8, 255#8, 255#8, 0x74#8, 0x45#8, 0x58#8, 0x74#8]) ∧
    (Instr.rowIllegal 5#8).wellFormed = true ∧ encode (.rowIllegal 5#8) = some (.row, [5#8]) := by decide

end Sys2Proof.Tests
end

/-! ### The reset event and `STATUS` (10_state) -/

namespace Sys2Proof.Machine

/-! #### `STATUS` field by field (R23) -/

/-- Four flags above a 4-bit code, at the width `1 + 1 + 1 + 1 + 4` that `BitVec.getLsbD_append` rewrites at. -/
theorem getLsbD_flags_append_code (valid err done busy : Bool) (code : BitVec 4) :
    let w := BitVec.ofBool valid ++ BitVec.ofBool err ++ BitVec.ofBool done ++ BitVec.ofBool busy ++ code
    w.getLsbD 4 = busy ∧ w.getLsbD 5 = done ∧ w.getLsbD 6 = err ∧ w.getLsbD 7 = valid := by
  simp only [BitVec.getLsbD_append]
  simp

theorem State.status_code (s : State) : s.status.extractLsb' 0 4 = s.phase.code := BitVec.extractLsb'_append_eq_right

theorem State.status_flags (s : State) :
    s.status.getLsbD 4 = s.busy ∧ s.status.getLsbD 5 = s.isDone ∧ s.status.getLsbD 6 = s.isErr ∧ s.status.getLsbD 7 = s.hdrValid :=
  getLsbD_flags_append_code ..

theorem State.busy_iff_code (s : State) : s.busy = true ↔ 1 ≤ s.phase.code.toNat ∧ s.phase.code.toNat ≤ 8 := by
  simp [State.busy]

theorem Phase.code_eq_done_iff (p : Phase) : p.code = 9#4 ↔ p = .done := by cases p <;> decide

theorem Phase.code_eq_error_iff (p : Phase) : p.code = 10#4 ↔ p = .error := by cases p <;> decide

theorem State.isDone_iff_code (s : State) : s.isDone = true ↔ s.phase.code = 9#4 := by
  rw [Phase.code_eq_done_iff, State.isDone, decide_eq_true_iff]

theorem State.isErr_iff_code (s : State) : s.isErr = true ↔ s.phase.code = 10#4 := by
  rw [Phase.code_eq_error_iff, State.isErr, decide_eq_true_iff]

/-- `STATUS` holds no state of its own (R23). -/
theorem State.status_congr {s t : State} (hp : t.phase = s.phase) (hv : t.hdrValid = s.hdrValid) : t.status = s.status := by
  simp only [State.status, State.isErr, State.isDone, State.busy, hp, hv]

theorem State.reset_status : State.reset.status = 0#8 := by decide

/-! #### After the reset event (R39, R270) -/

theorem State.resetEvent_status (s : State) : s.resetEvent.status = 0#8 :=
  (State.status_congr rfl rfl).trans State.reset_status

/-- `GRID_ROWS` is 0 outside `DONE` (R28). -/
theorem State.gridRows_of_not_done {s : State} (h : s.phase ≠ .done) : s.gridRows = 0#32 := by
  simp [State.gridRows, State.isDone, h]

/-- The reset event drops the request, so an answer that comes late is ignored (R270). -/
theorem step_collaborator_of_resetEvent {s : State} {rest : List Turn} (h : s.agenda = .collaborator :: rest) :
    step s.resetEvent = .next { s.resetEvent with agenda := rest } := by
  have hagenda : s.resetEvent.agenda = .collaborator :: rest := h
  have hreq : (s.resetEvent.afterTurn rest).inflReq = false := rfl
  rw [step_collaborator hagenda, collaboratorTurn_idle (.inl hreq)]
  rfl

/-- Settles O1: the reset turn runs `resetEvent`, whose registers are those of `State.reset`; `STATUS` and `GRID_ROWS` follow from
its phase, and a collaborator's turn after it finds no request. -/
theorem resetEventRestoresEveryRegister : Obligations.ResetEventRestoresEveryRegister := by
  intro s rest h
  have hgrid : (s.afterTurn rest).resetEvent.gridRows = 0#32 := State.gridRows_of_not_done Phase.noConfusion
  refine ⟨_, step_reset h, rfl, rfl, State.resetEvent_status _, rfl,
    rfl, rfl, rfl, rfl,
    rfl, rfl, rfl, rfl, rfl,
    rfl, rfl, rfl, rfl, rfl, rfl, rfl, rfl,
    rfl, rfl, rfl, rfl,
    rfl, rfl, rfl, rfl, hgrid, rfl, ?_⟩
  exact fun _ hlate => step_collaborator_of_resetEvent hlate

/-- Settles O3: each field of `STATUS` is the flag it is built from, and the flags are read off the code of `PHASE`. -/
theorem statusIsAFunctionOfPhaseAndHdrValid : Obligations.StatusIsAFunctionOfPhaseAndHdrValid := by
  refine ⟨State.reset_status, fun s => ?_⟩
  obtain ⟨hbusy, hdone, herr, hvalid⟩ := s.status_flags
  rw [hbusy, hdone, herr]
  exact ⟨s.status_code, s.busy_iff_code, s.isDone_iff_code, s.isErr_iff_code, hvalid, rfl, fun t => State.status_congr⟩

end Sys2Proof.Machine

/-! ### The Byte Cursor (40_byte_cursor) -/

namespace Sys2Proof.Machine

/-- The number a 4-byte read spells, most significant byte first (R50). -/
theorem Memory.read4_toNat (m : Memory) (off : Nat) :
    (Memory.read4 m off).toNat =
      (Memory.read m off).toNat * 2 ^ 24 + (Memory.read m (off + 1)).toNat * 2 ^ 16 +
        (Memory.read m (off + 2)).toNat * 2 ^ 8 + (Memory.read m (off + 3)).toNat :=
  be32_toNat ..

/-- Settles O15: the four clauses are the success and the failure of the two cursor reads; the value read is big-endian by
`Memory.read4_toNat`. -/
theorem cursorReadsOrIsOutOfBounds : Obligations.CursorReadsOrIsOutOfBounds := by
  intro m n pos _
  refine ⟨?tooShort, ?fourBytes, ?noByte, ?oneByte⟩
  case tooShort => exact cursorU32_error
  case fourBytes => exact fun h => ⟨_, cursorU32_ok h, Memory.read4_toNat m pos⟩
  case noByte => exact cursorU8_error
  case oneByte => exact cursorU8_ok

end Sys2Proof.Machine

/-! ### The Chunk Reader (41_chunk_reader) -/

namespace Sys2Proof.Machine

/-- The record's 12 bytes besides its payload are the 8 before it and the 4 of the checksum after it (R121). -/
theorem State.framed_eq (s : State) (typ len : U32) :
    s.framed typ len = { s with
      chStart := s.pos
      len := len
      typ := typ
      chunkTable := s.chunkTable ++ [⟨typ, s.pos + 8, len⟩]
      pos := s.pos + 12 + len.toNat } := by
  have hpos : s.pos + 8 + len.toNat + 4 = s.pos + 12 + len.toNat := by omega
  rw [State.framed, hpos]

/-- Settles O19: each outcome is one branch of `execSeqFrame_eq`. A record that fits has at least 12 bytes left, so neither the
end of `BODY` nor `OutOfBounds` can come first. -/
theorem frameStepFramesOneRecordOrFails : Obligations.FrameStepFramesOneRecordOrFails := by
  intro s _
  have hframe : exec .seqFrame s = _ := execSeqFrame_eq s
  refine ⟨?atEnd, ?tooShort, ?notFitting, ?fits⟩
  case atEnd => exact fun hend => hframe.trans (if_pos hend)
  case tooShort =>
    intro h1 h3
    rw [hframe, if_neg (by omega), if_pos (by omega)]
  case notFitting =>
    intro h4 hlong
    rw [hframe, if_neg (by omega), if_neg (by omega), if_pos hlong]
  case fits =>
    intro hfits
    refine ⟨?_, by omega⟩
    rw [hframe, if_neg (by omega), if_neg (by omega), if_neg (Nat.not_lt.mpr hfits), State.framed_eq]

end Sys2Proof.Machine

/-! ### The Header Parser (42_header_parser) -/

namespace Sys2Proof.Machine

/-- The seven fields byte by byte, at the offsets of R86. -/
theorem State.withHeader_eq (s : State) (off : Nat) :
    s.withHeader off = { s with
      hdrWidth := be32 (Memory.read s.body off) (Memory.read s.body (off + 1))
        (Memory.read s.body (off + 2)) (Memory.read s.body (off + 3))
      hdrHeight := be32 (Memory.read s.body (off + 4)) (Memory.read s.body (off + 5))
        (Memory.read s.body (off + 6)) (Memory.read s.body (off + 7))
      hdrBitDepth := Memory.read s.body (off + 8)
      hdrColorType := Memory.read s.body (off + 9)
      hdrCompression := Memory.read s.body (off + 10)
      hdrFilter := Memory.read s.body (off + 11)
      hdrInterlace := Memory.read s.body (off + 12)
      hdrPos := off + 13 } := rfl

/-- `SEQ.HEADER` with no chunk framed (R140). -/
theorem exec_seqHeader_of_empty {s : State} (h : s.chunkTable = []) :
    exec .seqHeader s = .next (s.raise .malformedStream 1 0) := by
  have hfirst : s.firstEntry = none := by rw [State.firstEntry, h]; rfl
  rw [show exec .seqHeader s = _ from execSeqHeader_eq s, hfirst]

/-- `SEQ.HEADER` on the first entry: its type, then its length, then the fields (R141 to R143). -/
theorem exec_seqHeader_of_cons {s : State} {e : ChunkEntry} {rest : List ChunkEntry} (h : s.chunkTable = e :: rest) :
    exec .seqHeader s =
      if e.typeCode = 0x49484452#32 then
        if e.payLen = 13#32 then .next { s.withHeader e.payOff with hdrValid := true, phase := .validate }
        else .next (s.raise .invalidHeader e.payLen.toNat 0)
      else .next (s.raise .malformedStream 2 e.typeCode.toNat) := by
  have hfirst : s.firstEntry = some e := by rw [State.firstEntry, h]; rfl
  have hlen : e.payLen.toNat = 13 ↔ e.payLen = 13#32 := BitVec.toNat_inj (y := 13#32)
  rw [show exec .seqHeader s = _ from execSeqHeader_eq s, hfirst]
  simp only [Config.typeIhdr, ne_eq, ite_not, hlen]

/-- Settles O23: the empty table, and the three outcomes of the step on the first entry, the type tested before the length. -/
theorem headerStepChecksThenExtracts : Obligations.HeaderStepChecksThenExtracts := by
  refine fun s => ⟨exec_seqHeader_of_empty, fun e rest htable => ?_⟩
  rw [exec_seqHeader_of_cons htable]
  refine ⟨?otherType, ?wrongLength, ?extracts⟩
  case otherType => exact fun htype => if_neg htype
  case wrongLength => exact fun htype hlen => by rw [if_pos htype, if_neg hlen]
  case extracts => exact fun htype hlen => by rw [if_pos htype, if_pos hlen, State.withHeader_eq]

/-- `SEQ.VALIDATE` as one case split (R144). -/
theorem exec_seqValidate_eq (s : State) :
    exec .seqValidate s =
      if s.hdrBitDepth = 8#8 then
        if s.hdrColorType = 2#8 then
          if s.hdrCompression = 0#8 then
            if s.hdrFilter = 0#8 then
              if s.hdrInterlace = 0#8 then .next { s with ci := 0, compLen := 0, phase := .concat }
              else .next (s.raise .unsupportedImageFormat 5 s.hdrInterlace.toNat)
            else .next (s.raise .unsupportedImageFormat 4 s.hdrFilter.toNat)
          else .next (s.raise .unsupportedImageFormat 3 s.hdrCompression.toNat)
        else .next (s.raise .unsupportedImageFormat 2 s.hdrColorType.toNat)
      else .next (s.raise .unsupportedImageFormat 1 s.hdrBitDepth.toNat) := by
  simp only [exec, execSeqValidate, Config.colorTruecolor, ne_eq, ite_not]

/-- Settles O24: a field is named once every test before its own has passed. -/
theorem validateNamesTheFirstUnsupportedField : Obligations.ValidateNamesTheFirstUnsupportedField := by
  intro s
  rw [exec_seqValidate_eq]
  refine ⟨?bitDepth, ?colorType, ?compression, ?filter, ?interlace, ?supported⟩
  case bitDepth => exact fun hd => if_neg hd
  case colorType => exact fun hd ht => by rw [if_pos hd, if_neg ht]
  case compression => exact fun hd ht hc => by rw [if_pos hd, if_pos ht, if_neg hc]
  case filter => exact fun hd ht hc hf => by rw [if_pos hd, if_pos ht, if_pos hc, if_neg hf]
  case interlace => exact fun hd ht hc hf hi => by rw [if_pos hd, if_pos ht, if_pos hc, if_pos hf, if_neg hi]
  case supported => exact fun hd ht hc hf hi => by rw [if_pos hd, if_pos ht, if_pos hc, if_pos hf, if_pos hi]

end Sys2Proof.Machine

/-! ### The Scanline Reconstructor (43_scanline_reconstructor) -/

namespace Sys2Proof.Machine

/-! #### The length check and the end of the rows -/

/-- `SEQ.LENCHECK` with `INFL_LEN` below `NEED` (R160). -/
theorem exec_seqLencheck_of_lt {s : State} (h : s.inflLen < needOf s.hdrWidth s.hdrHeight) :
    exec .seqLencheck s = .next (s.raise .truncatedImageData s.inflLen 0) := if_pos h

/-- `SEQ.LENCHECK` with enough bytes (R160). -/
theorem exec_seqLencheck_of_le {s : State} (h : needOf s.hdrWidth s.hdrHeight ≤ s.inflLen) :
    exec .seqLencheck s = .next { s with
      rowBytes := BitVec.ofNat 34 (rowBytesOf s.hdrWidth)
      need := BitVec.ofNat 66 (needOf s.hdrWidth s.hdrHeight)
      row := 0#33
      prevRow := Memory.zeroBelow (rowBytesOf s.hdrWidth) s.prevRow
      phase := .rows } := if_neg (Nat.not_lt.mpr h)

/-- Settles O28: the two branches of `SEQ.LENCHECK`; 34 and 66 bits hold the two products whatever the dimensions. -/
theorem lengthCheckIsExact : Obligations.LengthCheckIsExact := by
  refine fun s => ⟨exec_seqLencheck_of_lt, fun hlen => ⟨_, _, _, exec_seqLencheck_of_le hlen, ?_⟩⟩
  refine ⟨toNat_rowBytes _, toNat_need _ _, ?zeroed, ?kept⟩
  case zeroed => exact fun i hi => (Memory.read_zeroBelow ..).trans (if_pos hi)
  case kept => exact fun i hi => (Memory.read_zeroBelow ..).trans (if_neg (Nat.not_lt.mpr hi))

/-- Settles O29: the first two tests of `SEQ.ROWS`, the end of the rows before the filter byte. -/
theorem rowsEndOrRejectTheFilterByte : Obligations.RowsEndOrRejectTheFilterByte := by
  refine fun s => ⟨?rowsEnd, ?badFilter, fun _ => rfl⟩
  case rowsEnd => exact fun hend => if_pos hend
  case badFilter =>
    rintro hrow ft rfl hft
    exact (if_neg hrow).trans (if_pos hft)

/-! #### The row instructions -/

/-- The row instruction a legal filter byte selects runs one row with that byte's predictor (R91, R161). -/
theorem exec_decodeRow {ft : Byte} (hft : ft.toNat ≤ 4) (s : State) :
    exec (decodeRow ft) s = .next (reconstructRow ft (predictorOf ft) s) := by
  obtain rfl | rfl | rfl | rfl | rfl := filter_cases (Nat.not_lt.mpr hft) <;> rfl

/-- Each sample's equation over the finished row, with R163's neighbours written out. -/
theorem read_reconstructRow_curRow (ft : Byte) (pred : Byte → Byte → Byte → Byte) {s : State} (h : s.curRow.wf = true) {i : Nat}
    (hi : i < s.rowBytes.toNat) :
    let row := (reconstructRow ft pred s).curRow
    Memory.read row i =
      Memory.read s.infl (s.row.toNat * (1 + s.rowBytes.toNat) + 1 + i) +
        pred (if 3 ≤ i then Memory.read row (i - 3) else 0#8) (Memory.read s.prevRow i)
          (if 3 ≤ i then Memory.read s.prevRow (i - 3) else 0#8) :=
  read_rowLoop h hi

/-- Settles O30: each of the five is the row instruction of a legal filter byte, whose row obeys the sample equation. -/
theorem rowInstructionsReconstructEverySample : Obligations.RowInstructionsReconstructEverySample := by
  intro s hcur ins pred hins
  obtain ⟨ft, hft, rfl, rfl⟩ : ∃ ft : Byte, ft.toNat ≤ 4 ∧ ins = decodeRow ft ∧ pred = predictorOf ft := by
    obtain ⟨rfl, rfl⟩ | ⟨rfl, rfl⟩ | ⟨rfl, rfl⟩ | ⟨rfl, rfl⟩ | ⟨rfl, rfl⟩ := hins
    · exact ⟨0#8, by decide, rfl, rfl⟩
    · exact ⟨1#8, by decide, rfl, rfl⟩
    · exact ⟨2#8, by decide, rfl, rfl⟩
    · exact ⟨3#8, by decide, rfl, rfl⟩
    · exact ⟨4#8, by decide, rfl, rfl⟩
  exact ⟨_, exec_decodeRow hft s, fun i hi => read_reconstructRow_curRow ft _ hcur hi⟩

/-! #### The row commit -/

/-- Copying `n` bytes of `src` from its start to offset `a`: byte `i` of the range is `src`'s byte `i`. -/
theorem Memory.read_copy_inside {m : Memory} (h : m.wf = true) (src : Memory) (a : Nat) {n i : Nat} (hi : i < n) :
    Memory.read (Memory.writeBytes m a (Memory.readBytes src 0 n)) (a + i) = Memory.read src i := by
  have hin : a ≤ a + i ∧ a + i < a + n := by omega
  rw [Memory.read_writeBytes h, Memory.length_readBytes, if_pos hin, Nat.add_sub_cancel_left, Memory.getD_readBytes _ _ _ _ hi,
    Nat.zero_add]

/-- The copy keeps every byte outside its range. -/
theorem Memory.read_copy_outside {m : Memory} (h : m.wf = true) (src : Memory) {a n b : Nat} (hb : b < a ∨ a + n ≤ b) :
    Memory.read (Memory.writeBytes m a (Memory.readBytes src 0 n)) b = Memory.read m b :=
  Memory.read_writeBytes_outside h (by rwa [Memory.length_readBytes])

theorem State.memoriesCanonical_iff (s : State) :
    s.memoriesCanonical = true ↔
      s.body.wf = true ∧ s.comp.wf = true ∧ s.infl.wf = true ∧ s.prevRow.wf = true ∧ s.curRow.wf = true ∧ s.grid.wf = true := by
  simp only [State.memoriesCanonical, Bool.and_eq_true, and_assoc]

/-- What a whole row writes: `FT`, the row in `CUR_ROW`, its two copies, and `ROW` (R161, R171). -/
theorem reconstructRow_eq (ft : Byte) (pred : Byte → Byte → Byte → Byte) (s : State) :
    reconstructRow ft pred s = { s with
      ft := ft
      curRow := (reconstructRow ft pred s).curRow
      grid := (reconstructRow ft pred s).grid
      prevRow := (reconstructRow ft pred s).prevRow
      row := s.row + 1#33 } := rfl

/-- Settles O31: `GRID` and `PREV_ROW` receive copies of the finished row, and the loop writes only the row's bytes. -/
theorem rowInstructionsCommitTheRowAndNothingElse : Obligations.RowInstructionsCommitTheRowAndNothingElse := by
  intro s hmem ins ft hins
  obtain ⟨_, _, _, hprev, hcur, hgrid⟩ := s.memoriesCanonical_iff.mp hmem
  obtain ⟨hft, rfl⟩ : ft.toNat ≤ 4 ∧ ins = decodeRow ft := by
    obtain ⟨rfl, rfl⟩ | ⟨rfl, rfl⟩ | ⟨rfl, rfl⟩ | ⟨rfl, rfl⟩ | ⟨rfl, rfl⟩ := hins <;> decide
  refine ⟨_, _, _, (exec_decodeRow hft s).trans (congrArg _ (reconstructRow_eq ..)), ?committed, ?kept, ?gridKept⟩
  case committed =>
    intro i hi
    have hcopy := Memory.read_copy_inside hprev (reconstructRow ft (predictorOf ft) s).curRow 0 hi
    rw [Nat.zero_add] at hcopy
    exact ⟨Memory.read_copy_inside hgrid _ _ hi, hcopy⟩
  case kept => exact fun a ha => ⟨read_rowLoop_ge hcur ha, Memory.read_copy_outside hprev _ (.inr ((Nat.zero_add _).trans_le ha))⟩
  case gridKept => exact fun a ha => Memory.read_copy_outside hgrid _ ha

/-! #### The Paeth predictor -/

/-- `paeth` in exact integers: its distances are absolute values of signed differences (R176). -/
theorem paeth_eq (a b c : Byte) {p pa pb pc : Int} (hp : p = (a.toNat : Int) + b.toNat - c.toNat)
    (ha : pa = |p - a.toNat|) (hb : pb = |p - b.toNat|) (hc : pc = |p - c.toNat|) :
    paeth a b c = if pa ≤ pb ∧ pa ≤ pc then a else if pb ≤ pc then b else c := by
  subst hp ha hb hc
  simp only [paeth, Int.abs_eq_natAbs, Int.ofNat_le]

/-- Settles O32: the three branches of `paeth_eq`. -/
theorem paethIsTheThreeNeighbourPredictor : Obligations.PaethIsTheThreeNeighbourPredictor := by
  intro a b c p pa pb pc hp ha hb hc
  rw [paeth_eq a b c hp ha hb hc]
  refine ⟨?left, ?up, ?upLeft⟩
  case left => exact fun hab hac => if_pos ⟨hab, hac⟩
  case up => exact fun hnot hbc => (if_neg hnot).trans (if_pos hbc)
  case upLeft => exact fun hnot hbc => (if_neg hnot).trans (if_neg hbc)

end Sys2Proof.Machine

/-! ### The Pipeline Driver (44_pipeline_driver) -/

namespace Sys2Proof.Machine

/-! #### `CONCAT` -/

/-- A range of `src` copied to offset `a`: inside the target range its bytes, outside it every byte as before. -/
theorem Memory.read_writeBytes_readBytes {m : Memory} (h : m.wf = true) (src : Memory) (a o n b : Nat) :
    Memory.read (Memory.writeBytes m a (Memory.readBytes src o n)) b =
      if a ≤ b ∧ b < a + n then Memory.read src (o + (b - a)) else Memory.read m b := by
  rw [Memory.read_writeBytes h, Memory.length_readBytes]
  split_ifs with hb
  · exact Memory.getD_readBytes src o n (b - a) (by omega)
  · rfl

/-- `SEQ.CONCAT` once every index is examined (R206). -/
theorem exec_seqConcat_of_end {s : State} (hci : s.ci = s.nChunks) :
    exec .seqConcat s = .next { s with inflReq := true, phase := .inflate } := if_pos hci

/-- `SEQ.CONCAT` on the entry at `CI` (R205): only the type decides between the copy and the passing over. -/
theorem exec_seqConcat_of_entry {s : State} {e : ChunkEntry} (hci : s.ci ≠ s.nChunks) (he : s.ciEntry = some e) :
    exec .seqConcat s = if e.typeCode = Config.typeIdat then copyChunk e.payLen e.payOff s else passChunk s := by
  rw [show exec .seqConcat s = execSeqConcat s from rfl, execSeqConcat, if_neg hci, he]

/-- Settles O25: the end of the table, and the two branches of the step on an entry; what the copy leaves in `COMP` is
`Memory.read_writeBytes_readBytes` inside and outside its range. -/
theorem concatAppendsImageDataOrPassesOver : Obligations.ConcatAppendsImageDataOrPassesOver := by
  refine fun s hcomp => ⟨exec_seqConcat_of_end, fun e hci he => ?_⟩
  rw [exec_seqConcat_of_entry hci he]
  refine ⟨?passedOver, fun htype => ⟨_, if_pos htype, ?copied, ?kept⟩⟩
  case passedOver => exact fun htype => if_neg htype
  case copied =>
    intro j hj
    rw [Memory.read_writeBytes_readBytes hcomp, if_pos (by omega), Nat.add_sub_cancel_left]
  case kept =>
    intro a ha
    rw [Memory.read_writeBytes_readBytes hcomp, if_neg (by omega)]

/-! #### `ENDCHECK` -/

/-- `SEQ.ENDCHECK` on the last entry (R210): its type first. -/
theorem exec_seqEndcheck_of_last {s : State} {e : ChunkEntry} (he : s.lastEntry = some e) :
    exec .seqEndcheck s = if e.typeCode ≠ Config.typeIend then lastNotIend e.typeCode s else endMarker e.payLen s := by
  rw [show exec .seqEndcheck s = execSeqEndcheck s from rfl, execSeqEndcheck, he]

/-- Settles O37: the type of the last chunk is tested before its payload length. -/
theorem endCheckWantsAnEmptyEndMarkerLast : Obligations.EndCheckWantsAnEmptyEndMarkerLast := by
  intro s e he
  rw [exec_seqEndcheck_of_last he]
  refine ⟨?otherType, ?withPayload, ?empty⟩
  case otherType => exact fun htype => if_pos htype
  case withPayload => exact fun htype hlen => (if_neg (not_not_intro htype)).trans (if_pos hlen)
  case empty => exact fun htype hlen => (if_neg (not_not_intro htype)).trans (if_neg (not_not_intro hlen))

end Sys2Proof.Machine

/-! ### One step, by the agent that takes it (00_scope R7) -/

namespace Sys2Proof.Machine

/-- The turn a step takes: the head of the agenda, the sequencer's where there is none (log entry 4). -/
def State.turn (s : State) : Turn := s.agenda.head?.getD .sequencer

/-- The state a step acts on: `s` with its turn taken off the agenda. -/
def State.taken (s : State) : State := s.afterTurn s.agenda.tail

theorem State.agenda_of_turn {s : State} {x : Turn} (h : s.turn = x) (hx : x ≠ .sequencer) : ∃ rest, s.agenda = x :: rest := by
  cases ha : s.agenda with
  | nil => exact absurd (by rw [← h, State.turn, ha]; rfl) hx
  | cons y rest => exact ⟨rest, by rw [← h, State.turn, ha]; rfl⟩

theorem State.taken_of_cons {s : State} {x : Turn} {rest : List Turn} (h : s.agenda = x :: rest) :
    s.taken = { s with agenda := rest } := by
  rw [State.taken, h]
  rfl

theorem State.taken_of_nil {s : State} (h : s.agenda = []) : s.taken = s := by
  rw [State.taken, h, List.tail_nil, ← h]
  rfl

/-- What one agent's turn `x` can do to the state `u` it acts on, with the guards under which it does. -/
inductive AgentStep (u : State) (x : Turn) : State → Prop where
  | sequencer {t : State} (hx : x = .sequencer) (h : SeqStep u t) : AgentStep u x t
  | collaborator {t : State} (hx : x = .collaborator) (h : CollabStep u t) : AgentStep u x t
  | reset (hx : x = .reset) : AgentStep u x u.resetEvent
  | start (v : Nat) (hx : x = .writeReg 0#5 v) (hv : v % 4 = 1) (hb : u.busy = false) :
      AgentStep u x { u.clearDecode with phase := .frame }
  | clear (v : Nat) (hx : x = .writeReg 0#5 v) (hv : v % 4 = 2) (hb : u.busy = false) :
      AgentStep u x { u.clearDecode with phase := .idle }
  | writeLen (v : Nat) (hx : x = .writeReg 5#5 v) (hb : u.busy = false) : AgentStep u x { u with bodyLen := v }
  | writeBody (a : Nat) (v : Byte) (hx : x = .writeBody a v) (hb : u.busy = false) :
      AgentStep u x { u with body := Memory.write u.body a v }
  | read (v : Nat) : AgentStep u x (u.answerHost v)
  | nothing : AgentStep u x u

/-- The low two bits of a written value select the command (R30, log entry 13). -/
theorem mod_four_of_ofNat {v k : Nat} (h : BitVec.ofNat 2 v = BitVec.ofNat 2 k) : v % 4 = k % 4 := by
  simpa using congrArg BitVec.toNat h

/-- The inversion lemma of a step: every step that answers a next state is one of these. -/
theorem agentStep_of_step {s t : State} (h : step s = .next t) : AgentStep s.taken s.turn t := by
  obtain ⟨u, hu, h⟩ := step_next_cases h
  obtain rfl : u = s.taken := by
    obtain ⟨hnil, rfl⟩ | ⟨x, rest, hcons, rfl⟩ := hu
    · exact (State.taken_of_nil hnil).symm
    · exact (State.taken_of_cons hcons).symm
  have hturn {x : Turn} (hx : s.agenda.head? = some x) : s.turn = x := by rw [State.turn, hx]; rfl
  obtain ⟨hx, h⟩ | ⟨hx, rfl⟩ | ⟨hx, rfl⟩ | ⟨v, hx, hv, hb, rfl⟩ | ⟨v, hx, hv, hb, rfl⟩ | ⟨v, hx, hb, rfl⟩ | ⟨a, v, hx, hb, rfl⟩ |
    ⟨v, -, rfl⟩ | ⟨-, rfl⟩ := h
  · exact .sequencer hx (seqStep_of_exec h)
  · exact .collaborator (hturn hx) (collabStep _)
  · exact .reset (hturn hx)
  · exact .start v (hturn hx) (mod_four_of_ofNat hv) hb
  · exact .clear v (hturn hx) (mod_four_of_ofNat hv) hb
  · exact .writeLen v (hturn hx) hb
  · exact .writeBody a v (hturn hx) hb
  · exact .read v
  · exact .nothing

/-! ### Canonical memories (log entry 1) -/

theorem SeqStep.memoriesCanonical {u t : State} (hu : u.memoriesCanonical = true) (h : SeqStep u t) :
    t.memoriesCanonical = true := by
  obtain ⟨hbody, hcomp, hinfl, hprev, hcur, hgrid⟩ := u.memoriesCanonical_iff.mp hu
  cases h with
  | copies e => exact (State.memoriesCanonical_iff _).mpr ⟨hbody, Memory.wf_writeBytes _ _ hcomp, hinfl, hprev, hcur, hgrid⟩
  | passesLength => exact (State.memoriesCanonical_iff _).mpr ⟨hbody, hcomp, hinfl, Memory.wf_zeroBelow _ hprev, hcur, hgrid⟩
  | rowDone =>
    exact (State.memoriesCanonical_iff _).mpr
      ⟨hbody, hcomp, hinfl, Memory.wf_writeBytes _ _ hprev, wf_rowLoop _ hcur, Memory.wf_writeBytes _ _ hgrid⟩
  | _ => exact hu

theorem CollabStep.memoriesCanonical {u t : State} (hu : u.memoriesCanonical = true) (h : CollabStep u t) :
    t.memoriesCanonical = true := by
  cases h with
  | deliversOk bytes =>
    obtain ⟨hbody, hcomp, hinfl, hprev, hcur, hgrid⟩ := u.memoriesCanonical_iff.mp hu
    exact (State.memoriesCanonical_iff _).mpr ⟨hbody, hcomp, Memory.wf_writeBytes _ _ hinfl, hprev, hcur, hgrid⟩
  | _ => exact hu

/-- Every agent writes the memories by operations that keep the form. -/
theorem AgentStep.memoriesCanonical {u t : State} {x : Turn} (hu : u.memoriesCanonical = true) (h : AgentStep u x t) :
    t.memoriesCanonical = true := by
  cases h with
  | sequencer _ h => exact h.memoriesCanonical hu
  | collaborator _ h => exact h.memoriesCanonical hu
  | reset => rfl
  | writeBody a v =>
    obtain ⟨hbody, hothers⟩ := u.memoriesCanonical_iff.mp hu
    exact (State.memoriesCanonical_iff _).mpr ⟨Memory.wf_write a v hbody, hothers⟩
  | _ => exact hu

/-- Settles O44: the form does not speak of the agenda, and every agent keeps it. -/
theorem everyStepKeepsMemoriesCanonical : Obligations.EveryStepKeepsMemoriesCanonical := fun s _ hs hstep =>
  (agentStep_of_step hstep).memoriesCanonical (u := s.taken) hs

end Sys2Proof.Machine

/-! ### The control invariant, phase by phase

`State.ControlInv` guards its clauses by ranges of phase codes. `State.Promise` is the same invariant read at one phase, so that a
step from one phase to the next need only say what it adds. -/

namespace Sys2Proof.Machine

/-- A known phase's code lies where its number does (R22). -/
theorem State.phaseNo_mem {s : State} {p : Phase} (hp : s.phase = p) {lo hi : Nat}
    (h : lo ≤ p.code.toNat ∧ p.code.toNat ≤ hi) : lo ≤ s.phaseNo ∧ s.phaseNo ≤ hi := by
  rw [State.phaseNo, hp]
  exact h

/-- No error is recorded (R29). -/
def State.NoError (s : State) : Prop := s.errCode = 0#4 ∧ s.errInfo0 = 0 ∧ s.errInfo1 = 0

/-- No request is outstanding and no answer waits (R27). -/
def State.PortIdle (s : State) : Prop := s.inflReq = false ∧ s.inflAnswer = none

/-- The framed records tile `BODY[0..POS)` (R24, R126). -/
def State.Framed (s : State) : Prop := Tiles s.chunkTable 0 s.pos ∧ s.pos ≤ s.bodyLen

/-- The framed records tile all of `BODY` (R126). -/
def State.FramedAll (s : State) : Prop := s.Framed ∧ s.pos = s.bodyLen

/-- Chunk 0 is an IHDR of 13 bytes (R141, R142). -/
def State.HeaderFirst (s : State) : Prop :=
  ∃ e, s.firstEntry = some e ∧ e.typeCode = Config.typeIhdr ∧ e.payLen.toNat = Config.ihdrLen

/-- The five format fields are the supported ones (R144). -/
def State.Supported (s : State) : Prop :=
  s.hdrBitDepth = 8#8 ∧ s.hdrColorType = Config.colorTruecolor ∧ s.hdrCompression = 0#8 ∧ s.hdrFilter = 0#8 ∧
    s.hdrInterlace = 0#8

/-- `CI` chunks have been examined (R205). -/
def State.ConcatTo (s : State) : Prop := s.ci ≤ s.nChunks ∧ s.compLen = idatLength (s.chunkTable.take s.ci)

/-- Every chunk has been examined (R205). -/
def State.ConcatAll (s : State) : Prop := s.compLen = idatLength s.chunkTable

/-- The exact products stand in their registers, and the inflated stream is long enough (R160). -/
def State.LengthsFit (s : State) : Prop :=
  s.rowBytes.toNat = rowBytesOf s.hdrWidth ∧ s.need.toNat = needOf s.hdrWidth s.hdrHeight ∧ s.need.toNat ≤ s.inflLen

/-- The last chunk is an empty IEND (R210). -/
def State.EndMarkerLast (s : State) : Prop := ∃ e, s.lastEntry = some e ∧ e.typeCode = Config.typeIend ∧ e.payLen = 0#32

/-- What is promised from `LENCHECK` to `ENDCHECK` beside the products: the whole of the earlier stages' work. -/
def State.Concatenated (s : State) : Prop :=
  s.NoError ∧ s.PortIdle ∧ s.hdrValid = true ∧ s.FramedAll ∧ s.HeaderFirst ∧ s.Supported ∧ s.ConcatAll

/-- What the rules promise of the registers in phase `p`. -/
def State.Promise (s : State) : Phase → Prop
  | .idle => s.NoError ∧ s.PortIdle ∧ s.hdrValid = false
  | .frame => s.NoError ∧ s.PortIdle ∧ s.hdrValid = false ∧ s.Framed
  | .header => s.NoError ∧ s.PortIdle ∧ s.hdrValid = false ∧ s.FramedAll
  | .validate => s.NoError ∧ s.PortIdle ∧ s.hdrValid = true ∧ s.FramedAll ∧ s.HeaderFirst
  | .concat => s.NoError ∧ s.PortIdle ∧ s.hdrValid = true ∧ s.FramedAll ∧ s.HeaderFirst ∧ s.Supported ∧ s.ConcatTo
  | .inflate => s.NoError ∧ s.inflReq = true ∧ s.hdrValid = true ∧ s.FramedAll ∧ s.HeaderFirst ∧ s.Supported ∧ s.ConcatAll
  | .lencheck => s.Concatenated
  | .rows => s.Concatenated ∧ s.LengthsFit ∧ s.row.toNat ≤ s.hdrHeight.toNat
  | .endcheck => s.Concatenated ∧ s.LengthsFit ∧ s.row.toNat = s.hdrHeight.toNat
  | .done =>
    s.NoError ∧ s.PortIdle ∧ s.hdrValid = true ∧ s.HeaderFirst ∧ s.Supported ∧ s.LengthsFit ∧
      s.row.toNat = s.hdrHeight.toNat ∧ s.EndMarkerLast
  | .error => (s.errCode ≠ 0#4 ∧ s.errCode.toNat ≤ 8) ∧ s.PortIdle ∧ s.hdrValid = false

/-- The three clauses on the error registers (R29, R231): a recorded error in `ERROR`, none elsewhere. -/
theorem State.errorClauses_iff (s : State) :
    ((s.phase = .error ↔ s.errCode ≠ 0#4) ∧ s.errCode.toNat ≤ 8 ∧ (s.errCode = 0#4 → s.errInfo0 = 0 ∧ s.errInfo1 = 0)) ↔
      (s.phase ≠ .error → s.NoError) ∧ (s.phase = .error → s.errCode ≠ 0#4 ∧ s.errCode.toNat ≤ 8) := by
  by_cases hp : s.phase = .error <;> by_cases hc : s.errCode = 0#4 <;> simp [State.NoError, hp, hc]

/-- The two clauses on the inflate port (R27): a request is outstanding in `INFLATE`, and nothing waits elsewhere. -/
theorem State.portClauses_iff (s : State) :
    ((s.inflReq = true ↔ s.phase = .inflate) ∧ (s.inflAnswer ≠ none → s.phase = .inflate)) ↔
      (s.phase ≠ .inflate → s.PortIdle) ∧ (s.phase = .inflate → s.inflReq = true) := by
  by_cases hp : s.phase = .inflate <;> simp [State.PortIdle, hp]

/-- `State.ControlInv` in the names above, each clause with its guard. -/
theorem State.controlInv_iff (s : State) :
    s.ControlInv ↔
      ((s.phase ≠ .error → s.NoError) ∧ (s.phase = .error → s.errCode ≠ 0#4 ∧ s.errCode.toNat ≤ 8)) ∧
      ((s.phase ≠ .inflate → s.PortIdle) ∧ (s.phase = .inflate → s.inflReq = true)) ∧
      (s.hdrValid = true ↔ 3 ≤ s.phaseNo ∧ s.phaseNo ≤ 9) ∧
      (s.busy = true → s.Framed) ∧ (2 ≤ s.phaseNo → s.phaseNo ≤ 8 → s.pos = s.bodyLen) ∧
      (3 ≤ s.phaseNo → s.phaseNo ≤ 9 → s.HeaderFirst) ∧ (4 ≤ s.phaseNo → s.phaseNo ≤ 9 → s.Supported) ∧
      (s.phase = .concat → s.ConcatTo) ∧ (5 ≤ s.phaseNo → s.phaseNo ≤ 8 → s.ConcatAll) ∧
      (7 ≤ s.phaseNo → s.phaseNo ≤ 9 → s.LengthsFit) ∧ (s.phase = .rows → s.row.toNat ≤ s.hdrHeight.toNat) ∧
      (8 ≤ s.phaseNo → s.phaseNo ≤ 9 → s.row.toNat = s.hdrHeight.toNat) ∧ (s.phase = .done → s.EndMarkerLast) := by
  rw [← s.errorClauses_iff, ← s.portClauses_iff]
  constructor
  · rintro ⟨herr, hcode, hinfo, hreq, hans, hvalid, hframed, hall, hfirst, hformat, hconcat, hconcatAll, hlen, hrows, hrowsAll, hlast⟩
    exact ⟨⟨herr, hcode, hinfo⟩, ⟨hreq, hans⟩, hvalid, hframed, hall, hfirst, hformat, hconcat, hconcatAll, hlen, hrows, hrowsAll,
      hlast⟩
  · rintro ⟨⟨herr, hcode, hinfo⟩, ⟨hreq, hans⟩, hvalid, hframed, hall, hfirst, hformat, hconcat, hconcatAll, hlen, hrows, hrowsAll,
      hlast⟩
    exact ⟨herr, hcode, hinfo, hreq, hans, hvalid, hframed, hall, hfirst, hformat, hconcat, hconcatAll, hlen, hrows, hrowsAll, hlast⟩

/-- With the phase known every guard is true or false. -/
theorem State.controlInv_iff_promise {s : State} {p : Phase} (hp : s.phase = p) : s.ControlInv ↔ s.Promise p := by
  rw [State.controlInv_iff]
  cases p <;>
    simp [State.phaseNo, State.busy, Phase.code, hp, State.Promise, State.Concatenated, State.FramedAll, and_assoc]

end Sys2Proof.Machine

/-! ### Every step keeps the control invariant -/

namespace Sys2Proof.Machine

/-- A record framed at `POS` extends the tiling by its payload and 12 bytes (R121, R126). -/
theorem Tiles.append {entries : List ChunkEntry} {start pos : Nat} (h : Tiles entries start pos) (typ len : U32) :
    Tiles (entries ++ [⟨typ, pos + 8, len⟩]) start (pos + 8 + len.toNat + 4) := by
  induction entries generalizing start with
  | nil => exact ⟨congrArg (· + 8) h.symm, by simp only [Tiles] at h ⊢; omega⟩
  | cons e rest ih => exact ⟨h.1, ih h.2⟩

theorem idatLength_append (l l' : List ChunkEntry) : idatLength (l ++ l') = idatLength l + idatLength l' := by
  induction l with
  | nil => simp [idatLength]
  | cons e rest ih => simp only [List.cons_append, idatLength, ih]; omega

/-- The chunks examined, with the one at `CI` added (R205). -/
theorem State.take_ci_succ {s : State} {e : ChunkEntry} (he : s.ciEntry = some e) :
    s.chunkTable.take (s.ci + 1) = s.chunkTable.take s.ci ++ [e] := by
  rw [List.take_add_one, show s.chunkTable[s.ci]? = some e from he]
  rfl

theorem State.ci_lt_of_ciEntry {s : State} {e : ChunkEntry} (he : s.ciEntry = some e) : s.ci < s.nChunks := by
  obtain ⟨h, -⟩ := List.getElem?_eq_some_iff.mp he
  exact h

/-- Examining the chunk at `CI` adds its payload length if it is an IDAT, and nothing else (R205). -/
theorem State.ConcatTo.succ {s : State} (h : s.ConcatTo) {e : ChunkEntry} (he : s.ciEntry = some e) :
    s.ci + 1 ≤ s.nChunks ∧
      s.compLen + (if e.typeCode = Config.typeIdat then e.payLen.toNat else 0) = idatLength (s.chunkTable.take (s.ci + 1)) := by
  refine ⟨State.ci_lt_of_ciEntry he, ?_⟩
  rw [State.take_ci_succ he, idatLength_append, h.2]
  rfl

/-- Outside `INFLATE` no answer waits. -/
theorem State.ControlInv.portIdle {s : State} (h : s.ControlInv) (hp : s.phase ≠ .inflate) : s.inflAnswer = none :=
  not_not.mp fun hans => hp (h.answer hans)

theorem PngError.code_ne_zero (e : PngError) : e.code ≠ 0#4 := by cases e <;> decide

theorem PngError.code_le (e : PngError) : e.code.toNat ≤ 8 := by cases e <;> decide

/-- Error entry meets the invariant of `ERROR` from any state with no answer waiting (R240). -/
theorem State.controlInv_raise {s : State} (h : s.inflAnswer = none) (e : PngError) (i0 i1 : Nat) : (s.raise e i0 i1).ControlInv :=
  (State.controlInv_iff_promise rfl).mpr ⟨⟨e.code_ne_zero, e.code_le⟩, ⟨rfl, h⟩, rfl⟩

/-- The sequencer's steps keep the control invariant: each phase hands to the next what it has established. -/
theorem SeqStep.controlInv {u t : State} (hu : u.ControlInv) (h : SeqStep u t) : t.ControlInv := by
  have promise {p : Phase} (hp : u.phase = p) : u.Promise p := (State.controlInv_iff_promise hp).mp hu
  cases h with
  | waits => exact hu
  | raises e i0 i1 _ hp => exact State.controlInv_raise (hu.portIdle hp) e i0 i1
  | framesLast hp hpos =>
    obtain ⟨herr, hport, hvalid, hframed⟩ := promise hp
    exact (State.controlInv_iff_promise rfl).mpr ⟨herr, hport, hvalid, hframed, hpos⟩
  | frames typ len hp _ _ _ _ hfit =>
    obtain ⟨herr, hport, hvalid, htiles, _⟩ := promise hp
    have hwithin : u.pos + 8 + len.toNat + 4 ≤ u.bodyLen := by omega
    exact (State.controlInv_iff_promise (p := .frame) (by exact hp)).mpr ⟨herr, hport, hvalid, htiles.append typ len, hwithin⟩
  | parsesHeader e hp he ht hl =>
    obtain ⟨herr, hport, -, hframed⟩ := promise hp
    exact (State.controlInv_iff_promise rfl).mpr ⟨herr, hport, rfl, hframed, e, he, ht, hl⟩
  | validates hp h1 h2 h3 h4 h5 =>
    obtain ⟨herr, hport, hvalid, hframed, hfirst⟩ := promise hp
    exact (State.controlInv_iff_promise rfl).mpr
      ⟨herr, hport, hvalid, hframed, hfirst, ⟨h1, h2, h3, h4, h5⟩, Nat.zero_le _, rfl⟩
  | requests hp hc =>
    obtain ⟨herr, -, hvalid, hframed, hfirst, hsup, -, hlen⟩ := promise hp
    have hall : u.ConcatAll := by rw [hc, State.nChunks, List.take_length] at hlen; exact hlen
    exact (State.controlInv_iff_promise rfl).mpr ⟨herr, rfl, hvalid, hframed, hfirst, hsup, hall⟩
  | copies e hp _ he ht =>
    obtain ⟨herr, hport, hvalid, hframed, hfirst, hsup, hconcat⟩ := promise hp
    have hnext := hconcat.succ he
    rw [if_pos ht] at hnext
    exact (State.controlInv_iff_promise (p := .concat) (by exact hp)).mpr ⟨herr, hport, hvalid, hframed, hfirst, hsup, hnext⟩
  | passes e hp _ he ht =>
    obtain ⟨herr, hport, hvalid, hframed, hfirst, hsup, hconcat⟩ := promise hp
    have hnext := hconcat.succ he
    rw [if_neg ht] at hnext
    exact (State.controlInv_iff_promise (p := .concat) (by exact hp)).mpr ⟨herr, hport, hvalid, hframed, hfirst, hsup, hnext⟩
  | inflates hp =>
    obtain ⟨herr, -, hrest⟩ := promise hp
    exact (State.controlInv_iff_promise rfl).mpr ⟨herr, ⟨rfl, rfl⟩, hrest⟩
  | inflateFails => exact State.controlInv_raise rfl _ _ _
  | passesLength hp hl =>
    have hfit : (BitVec.ofNat 66 (needOf u.hdrWidth u.hdrHeight)).toNat ≤ u.inflLen := by rwa [toNat_need]
    exact (State.controlInv_iff_promise rfl).mpr ⟨promise hp, ⟨toNat_rowBytes _, toNat_need _ _, hfit⟩, Nat.zero_le _⟩
  | rowsEnd hp hr =>
    obtain ⟨hconcat, hlens, -⟩ := promise hp
    exact (State.controlInv_iff_promise rfl).mpr ⟨hconcat, hlens, hr⟩
  | rowDone hp hr =>
    obtain ⟨hconcat, hlens, hrow⟩ := promise hp
    have hlt : u.row.toNat < u.hdrHeight.toNat := by omega
    have hnext : (u.row + 1#33).toNat ≤ u.hdrHeight.toNat := by rw [toNat_row_succ hlt]; exact hlt
    exact (State.controlInv_iff_promise (p := .rows) (by exact hp)).mpr ⟨hconcat, hlens, hnext⟩
  | finishes e hp he ht hl =>
    obtain ⟨⟨herr, hport, hvalid, -, hfirst, hsup, -⟩, hlens, hrow⟩ := promise hp
    exact (State.controlInv_iff_promise rfl).mpr ⟨herr, hport, hvalid, hfirst, hsup, hlens, hrow, e, he, ht, hl⟩

/-- The commands, reset and the start of a decode leave no error, no header and nothing framed. -/
theorem State.controlInv_of_cleared {s : State} (hp : s.phase = .idle ∨ s.phase = .frame) (herr : s.NoError) (hport : s.PortIdle)
    (hvalid : s.hdrValid = false) (htable : s.chunkTable = []) (hpos : s.pos = 0) : s.ControlInv := by
  obtain hp | hp := hp
  · exact (State.controlInv_iff_promise hp).mpr ⟨herr, hport, hvalid⟩
  · have hframed : s.Framed := ⟨by rw [htable, hpos]; rfl, by omega⟩
    exact (State.controlInv_iff_promise hp).mpr ⟨herr, hport, hvalid, hframed⟩

/-- The control invariant says nothing of the turns to come. -/
theorem controlInv_afterTurn {s : State} (h : s.ControlInv) (rest : List Turn) : (s.afterTurn rest).ControlInv := { h with }

theorem State.ne_inflate_of_not_busy {s : State} (hb : s.busy = false) : s.phase ≠ .inflate := fun hp => by
  simp [busy_of_phase hp rfl] at hb

/-- Every agent's step keeps the control invariant. -/
theorem AgentStep.controlInv {u t : State} {x : Turn} (hu : u.ControlInv) (h : AgentStep u x t) : t.ControlInv := by
  cases h with
  | sequencer _ h => exact h.controlInv hu
  | collaborator _ h =>
    cases h with
    | nothing => exact hu
    | deliversOk bytes hreq =>
      exact (State.controlInv_iff_promise (p := .inflate) (by exact hu.request.mp hreq)).mpr
        ((State.controlInv_iff_promise (hu.request.mp hreq)).mp hu)
    | deliversFail hreq =>
      exact (State.controlInv_iff_promise (p := .inflate) (by exact hu.request.mp hreq)).mpr
        ((State.controlInv_iff_promise (hu.request.mp hreq)).mp hu)
  | reset => exact State.controlInv_of_cleared (.inl rfl) ⟨rfl, rfl, rfl⟩ ⟨rfl, rfl⟩ rfl rfl rfl
  | start _ _ _ hb =>
    exact State.controlInv_of_cleared (.inr rfl) ⟨rfl, rfl, rfl⟩ ⟨rfl, hu.portIdle (State.ne_inflate_of_not_busy hb)⟩ rfl rfl rfl
  | clear _ _ _ hb =>
    exact State.controlInv_of_cleared (.inl rfl) ⟨rfl, rfl, rfl⟩ ⟨rfl, hu.portIdle (State.ne_inflate_of_not_busy hb)⟩ rfl rfl rfl
  | writeLen v _ hb =>
    have notBusy : ¬ u.busy = true := by simp [hb]
    exact { hu with
      framed := fun hbusy => absurd hbusy notBusy
      framedAll := fun hlo hhi => absurd (u.busy_iff_code.mpr ⟨Nat.le_of_succ_le hlo, hhi⟩) notBusy }
  | writeBody =>
    exact { hu with }
  | read v => exact { hu with }
  | nothing => exact hu

/-- Settles O45: the invariant does not speak of the agenda, and every agent keeps it. -/
theorem everyStepKeepsTheControlInvariant : Obligations.EveryStepKeepsTheControlInvariant := fun s _ hs hstep =>
  (agentStep_of_step hstep).controlInv (controlInv_afterTurn hs s.agenda.tail)

end Sys2Proof.Machine

/-! ### What a step leaves of the table and of `COMP` -/

namespace Sys2Proof.Machine

@[simp] theorem State.resetEvent_phase (s : State) : s.resetEvent.phase = .idle := rfl

/-- A block that is not busy stands before a decode or after it. -/
theorem State.phaseNo_of_not_busy {s : State} (hb : s.busy = false) : s.phaseNo < 4 ∨ 8 < s.phaseNo := by
  have hno : ¬ (1 ≤ s.phaseNo ∧ s.phaseNo ≤ 8) := fun h => by simp [s.busy_iff_code.mpr h] at hb
  omega

/-- The sequencer does not make a block busy that is not (R201). -/
theorem SeqStep.busy_of_busy {u t : State} (h : SeqStep u t) (ht : t.busy = true) : u.busy = true := by
  cases h with
  | waits => exact ht
  | raises _ _ _ hb => exact hb
  | _ => exact busy_of_phase ‹u.phase = _› rfl

/-- The collaborator writes no register of the block but `INFL_LEN`, and no memory but `INFL` (R60). -/
theorem CollabStep.frame {u t : State} (h : CollabStep u t) :
    t = { u with infl := t.infl, inflLen := t.inflLen, inflAnswer := t.inflAnswer } := by
  cases h <;> rfl

/-! #### `CHUNK_TABLE` describes the records of `BODY` -/

theorem SeqStep.tableInv {u t : State} (hu : u.TableInv) (h : SeqStep u t) : t.TableInv := by
  intro ht
  have hentries := hu (h.busy_of_busy ht)
  cases h with
  | frames typ len _ hl htyp =>
    intro e he
    obtain he | rfl : e ∈ u.chunkTable ∨ e = ⟨typ, u.pos + 8, len⟩ := by simpa [State.framed] using he
    · exact hentries e he
    · exact ⟨Nat.le_add_left 8 u.pos, hl.symm, htyp.symm⟩
  | _ => exact hentries

theorem AgentStep.tableInv {u t : State} {x : Turn} (hu : u.TableInv) (h : AgentStep u x t) : t.TableInv := by
  cases h with
  | sequencer _ h => exact h.tableInv hu
  | collaborator _ h => rw [h.frame]; exact hu
  | reset => exact fun ht => absurd ht Bool.false_ne_true
  | start => exact fun _ e he => absurd he List.not_mem_nil
  | clear => exact fun ht => absurd ht Bool.false_ne_true
  | writeBody a v _ hb => exact fun ht => absurd (hb.symm.trans ht) Bool.false_ne_true
  | writeLen | read | nothing => exact hu

/-- Settles O46: an entry is appended with the fields that stand in `BODY`, and `BODY` is not written while busy. -/
theorem tableEntriesAreTheRecordsOfBody : Obligations.TableEntriesAreTheRecordsOfBody := fun s _ hs hstep =>
  (agentStep_of_step hstep).tableInv (u := s.taken) hs

/-! #### `COMP` is the concatenation of the image data -/

theorem idatBytes_append (body : Memory) (l l' : List ChunkEntry) :
    idatBytes body (l ++ l') = idatBytes body l ++ idatBytes body l' := by
  induction l with
  | nil => rfl
  | cons e rest ih => rw [List.cons_append, idatBytes, ih, idatBytes, List.append_assoc]

theorem State.compInv_iff_concat {s : State} (hp : s.phase = .concat) :
    s.CompInv ↔ Memory.readBytes s.comp 0 s.compLen = idatBytes s.body (s.chunkTable.take s.ci) := by
  simp [State.CompInv, State.phaseNo, hp, Phase.code]

theorem State.compInv_iff_all {s : State} (hno : 5 ≤ s.phaseNo ∧ s.phaseNo ≤ 8) :
    s.CompInv ↔ Memory.readBytes s.comp 0 s.compLen = idatBytes s.body s.chunkTable := by
  have hp : s.phase ≠ .concat := fun hp => by simp [State.phaseNo, hp, Phase.code] at hno
  simp [State.CompInv, hp, hno]

/-- Nothing is said of `COMP` before `CONCAT` and after the decode. -/
theorem State.compInv_of_outside {s : State} (hno : s.phaseNo < 4 ∨ 8 < s.phaseNo) : s.CompInv := by
  refine ⟨fun hp => ?_, fun hlo hhi => by omega⟩
  simp [State.phaseNo, hp, Phase.code] at hno

/-- Copying a payload to the end of `COMP` appends its bytes to what `COMP` holds (R205). -/
theorem Memory.readBytes_append_copy {m : Memory} (h : m.wf = true) (n : Nat) (bs : List Byte) :
    Memory.readBytes (Memory.writeBytes m n bs) 0 (n + bs.length) = Memory.readBytes m 0 n ++ bs := by
  rw [Memory.readBytes_add, Nat.zero_add, Memory.readBytes_writeBytes h]
  congr 1
  exact Memory.readBytes_congr fun i hi => Memory.read_writeBytes_outside h (.inl (by omega))

theorem SeqStep.compInv {u t : State} (hcomp : u.comp.wf = true) (hu : u.CompInv) (h : SeqStep u t) : t.CompInv := by
  /- What `COMP` holds once the chunk at `CI` is examined. -/
  have succ {e : ChunkEntry} (hp : u.phase = .concat) (he : u.ciEntry = some e) :
      idatBytes u.body (u.chunkTable.take (u.ci + 1)) = Memory.readBytes u.comp 0 u.compLen ++
        (if e.typeCode = Config.typeIdat then Memory.readBytes u.body e.payOff e.payLen.toNat else []) := by
    rw [State.take_ci_succ he, idatBytes_append, (State.compInv_iff_concat hp).mp hu]
    simp [idatBytes]
  cases h with
  | waits | rowDone => exact hu
  | raises | framesLast | parsesHeader | inflateFails | finishes => exact State.compInv_of_outside (by simp [State.phaseNo, Phase.code])
  | frames _ _ hp => exact State.compInv_of_outside (by simp [State.phaseNo, Phase.code, State.framed, hp])
  | validates => exact (State.compInv_iff_concat rfl).mpr rfl
  | requests hp hc =>
    have hall := (State.compInv_iff_concat hp).mp hu
    rw [hc, State.nChunks, List.take_length] at hall
    exact (State.compInv_iff_all (by simp [State.phaseNo, Phase.code])).mpr hall
  | copies e hp _ he ht =>
    have hnext := succ hp he
    rw [if_pos ht, ← Memory.readBytes_append_copy hcomp, Memory.length_readBytes] at hnext
    exact (State.compInv_iff_concat (by exact hp)).mpr hnext.symm
  | passes e hp _ he ht =>
    have hnext := succ hp he
    rw [if_neg ht, List.append_nil] at hnext
    exact (State.compInv_iff_concat (by exact hp)).mpr hnext.symm
  | inflates hp | passesLength hp | rowsEnd hp =>
    exact (State.compInv_iff_all (by simp [State.phaseNo, Phase.code])).mpr ((State.compInv_iff_all (s := u) (by simp [State.phaseNo, Phase.code, hp])).mp hu)

theorem AgentStep.compInv {u t : State} {x : Turn} (hcomp : u.comp.wf = true) (hu : u.CompInv) (h : AgentStep u x t) : t.CompInv := by
  cases h with
  | sequencer _ h => exact h.compInv hcomp hu
  | collaborator _ h => rw [h.frame]; exact hu
  | reset | start | clear => exact State.compInv_of_outside (by simp [State.phaseNo, Phase.code])
  | writeBody a v _ hb => exact State.compInv_of_outside (State.phaseNo_of_not_busy (s := u) hb)
  | writeLen | read | nothing => exact hu

/-- Settles O47: a payload is appended as it stands in `BODY`, and `BODY` and the table stay until the decode's end. -/
theorem compIsTheConcatenationOfImageData : Obligations.CompIsTheConcatenationOfImageData := by
  intro s t hmem hs hstep
  obtain ⟨-, hcomp, -⟩ := s.memoriesCanonical_iff.mp hmem
  exact (agentStep_of_step hstep).compInv (u := s.taken) hcomp hs

end Sys2Proof.Machine

/-! ### The rows of `GRID` are the reconstruction of `INFL` -/

namespace Sys2Proof.Machine

/-- Nothing is said of `GRID` before `ROWS`, and after the decode but in `DONE`. -/
theorem State.gridInv_of_outside {s : State} (hno : s.phaseNo < 7 ∨ 9 < s.phaseNo) : s.GridInv :=
  fun hlo hhi => by omega

/-- Outside `ROWS` the invariant speaks of the finished rows alone. -/
theorem State.gridInv_of_rows {s : State} (hp : s.phase ≠ .rows) (h : ∀ r, r < s.row.toNat → s.RowReconstructed r) : s.GridInv :=
  fun _ _ => ⟨h, fun hrows => absurd hrows hp⟩

/-- Whether row `r` is reconstructed depends on `INFL`, the row length, and the samples of rows `r` and `r - 1`. -/
theorem State.RowReconstructed.congr {u t : State} {r : Nat} (hinfl : t.infl = u.infl) (hrb : t.rowBytes = u.rowBytes)
    (hsample : ∀ r' i, r' ≤ r → i < u.rowBytes.toNat → t.sample r' i = u.sample r' i) (h : u.RowReconstructed r) :
    t.RowReconstructed r := by
  obtain ⟨hfilter, hrow⟩ := h
  have hf : t.filterOf r = u.filterOf r := by rw [State.filterOf, State.filterOf, hinfl, hrb]
  refine ⟨hf ▸ hfilter, fun i hi => ?_⟩
  rw [hrb] at hi
  have hstored : t.stored r i = u.stored r i := by rw [State.stored, State.stored, hinfl, hrb]
  have hleft : t.sampleLeft r i = u.sampleLeft r i := by
    rw [State.sampleLeft, State.sampleLeft, hsample r _ le_rfl (by omega)]
  have hup : t.sampleUp r i = u.sampleUp r i := by
    rw [State.sampleUp, State.sampleUp, hsample (r - 1) i (by omega) hi]
  have hupLeft : t.sampleUpLeft r i = u.sampleUpLeft r i := by
    rw [State.sampleUpLeft, State.sampleUpLeft, hsample (r - 1) _ (by omega) (by omega)]
  rw [hsample r i le_rfl hi, hstored, hf, hleft, hup, hupLeft]
  exact hrow i hi

section
variable {u : State} {ft : Byte} {pred : Byte → Byte → Byte → Byte}

/-- The row commit leaves the samples of the rows above as they are (R171). -/
theorem sample_reconstructRow_above (hgrid : u.grid.wf = true) {r i : Nat} (hr : r < u.row.toNat) (hi : i < u.rowBytes.toNat) :
    (reconstructRow ft pred u).sample r i = u.sample r i := by
  have hbelow : r * u.rowBytes.toNat + i < u.row.toNat * u.rowBytes.toNat := by
    calc r * u.rowBytes.toNat + i < (r + 1) * u.rowBytes.toNat := by rw [Nat.succ_mul]; omega
      _ ≤ u.row.toNat * u.rowBytes.toNat := Nat.mul_le_mul_right _ hr
  exact Memory.read_copy_outside hgrid _ (.inl hbelow)

/-- The row commit puts the finished row into row `ROW` of `GRID` (R171). -/
theorem sample_reconstructRow_row (hgrid : u.grid.wf = true) {i : Nat} (hi : i < u.rowBytes.toNat) :
    (reconstructRow ft pred u).sample u.row.toNat i = Memory.read (reconstructRow ft pred u).curRow i :=
  Memory.read_copy_inside hgrid _ _ hi

/-- The row commit puts the finished row into `PREV_ROW` (R171). -/
theorem read_reconstructRow_prevRow (hprev : u.prevRow.wf = true) {i : Nat} (hi : i < u.rowBytes.toNat) :
    Memory.read (reconstructRow ft pred u).prevRow i = Memory.read (reconstructRow ft pred u).curRow i := by
  have h := Memory.read_copy_inside hprev (reconstructRow ft pred u).curRow 0 hi
  rwa [Nat.zero_add] at h

/-- `PREV_ROW` holds row `ROW - 1` of `GRID`, or zeros where there is none (R36). -/
def State.PrevRowIsAbove (u : State) : Prop :=
  ∀ i, i < u.rowBytes.toNat → Memory.read u.prevRow i = if u.row.toNat = 0 then 0#8 else u.sample (u.row.toNat - 1) i

/-- The neighbours the row loop reads are the document's, taken from the grid as the row leaves it (R163): at the left, above, and
above left. -/
theorem sampleLeft_reconstructRow (hgrid : u.grid.wf = true) {i : Nat} (hi : i < u.rowBytes.toNat) :
    (reconstructRow ft pred u).sampleLeft u.row.toNat i = leftOf (reconstructRow ft pred u).curRow i := by
  rw [State.sampleLeft, sample_reconstructRow_row hgrid (by omega)]
  rfl

theorem sampleUp_reconstructRow (hgrid : u.grid.wf = true) (hprev : u.PrevRowIsAbove) {i : Nat} (hi : i < u.rowBytes.toNat) :
    (reconstructRow ft pred u).sampleUp u.row.toNat i = upOf u.prevRow i := by
  rw [State.sampleUp, upOf, hprev i hi]
  split_ifs with h0
  · rfl
  · exact sample_reconstructRow_above hgrid (by omega) hi

theorem sampleUpLeft_reconstructRow (hgrid : u.grid.wf = true) (hprev : u.PrevRowIsAbove) {i : Nat} (hi : i < u.rowBytes.toNat) :
    (reconstructRow ft pred u).sampleUpLeft u.row.toNat i = upLeftOf u.prevRow i := by
  rw [State.sampleUpLeft, upLeftOf, hprev _ (by omega)]
  split_ifs with h0
  · rfl
  · rfl
  · exact sample_reconstructRow_above hgrid (by omega) (by omega)
  · rfl

/-- The row just finished obeys the document's equation (R163, R164). -/
theorem rowReconstructed_reconstructRow (hcur : u.curRow.wf = true) (hgrid : u.grid.wf = true) (hprev : u.PrevRowIsAbove)
    (hft : u.filterByte.toNat ≤ 4) :
    (reconstructRow u.filterByte (predictorOf u.filterByte) u).RowReconstructed u.row.toNat := by
  refine ⟨hft, fun i hi => ?_⟩
  rw [sample_reconstructRow_row hgrid hi, sampleLeft_reconstructRow hgrid hi, sampleUp_reconstructRow hgrid hprev hi,
    sampleUpLeft_reconstructRow hgrid hprev hi]
  exact read_rowLoop hcur hi

end

/-- One row of `ROWS` adds the row `ROW` to the reconstructed ones and leaves it in `PREV_ROW` (R161, R171). -/
theorem State.GridInv.rowDone {u : State} (hmem : u.memoriesCanonical = true) (hu : u.GridInv) (hp : u.phase = .rows)
    (hlt : u.row.toNat < u.hdrHeight.toNat) (hft : u.filterByte.toNat ≤ 4) :
    (reconstructRow u.filterByte (predictorOf u.filterByte) u).GridInv := by
  obtain ⟨_, _, _, hprevWf, hcur, hgrid⟩ := u.memoriesCanonical_iff.mp hmem
  obtain ⟨hlo, hhi⟩ := State.phaseNo_mem hp (lo := 7) (hi := 9) (by decide)
  obtain ⟨hrows, hprev⟩ := hu hlo hhi
  have hrow : (reconstructRow u.filterByte (predictorOf u.filterByte) u).row.toNat = u.row.toNat + 1 := toNat_row_succ hlt
  refine fun _ _ => ⟨fun r hr => ?_, fun _ i hi => ?_⟩
  · rw [hrow, Nat.lt_succ_iff_lt_or_eq] at hr
    obtain hr | rfl := hr
    · exact State.RowReconstructed.congr (u := u) rfl rfl (fun r' i hr' hi => sample_reconstructRow_above hgrid (by omega) hi)
        (hrows r hr)
    · exact rowReconstructed_reconstructRow hcur hgrid (hprev hp) hft
  · rw [hrow, if_neg (Nat.succ_ne_zero _), Nat.add_sub_cancel, read_reconstructRow_prevRow hprevWf hi,
      sample_reconstructRow_row hgrid hi]

theorem SeqStep.gridInv {u t : State} (hmem : u.memoriesCanonical = true) (hctl : u.ControlInv) (hu : u.GridInv) (h : SeqStep u t) :
    t.GridInv := by
  cases h with
  | waits => exact hu
  | raises | framesLast | parsesHeader | validates | requests | inflates | inflateFails =>
    exact State.gridInv_of_outside (by simp [State.phaseNo, Phase.code])
  | frames _ _ hp | copies _ hp | passes _ hp => exact State.gridInv_of_outside (by simp [State.phaseNo, Phase.code, State.framed, hp])
  | passesLength =>
    refine fun _ _ => ⟨fun r hr => absurd hr (Nat.not_lt_zero r), fun _ i hi => ?_⟩
    rw [toNat_rowBytes] at hi
    rw [Memory.read_zeroBelow, if_pos hi]
    rfl
  | rowsEnd hp | finishes _ hp =>
    obtain ⟨hlo, hhi⟩ := State.phaseNo_mem hp (lo := 7) (hi := 9) (by decide)
    obtain ⟨hrows, -⟩ := hu hlo hhi
    exact State.gridInv_of_rows Phase.noConfusion hrows
  | rowDone hp hr hf => exact hu.rowDone hmem hp (lt_of_le_of_ne (hctl.rows hp) hr) hf

theorem AgentStep.gridInv {u t : State} {x : Turn} (hmem : u.memoriesCanonical = true) (hctl : u.ControlInv) (hu : u.GridInv)
    (h : AgentStep u x t) : t.GridInv := by
  cases h with
  | sequencer _ h => exact h.gridInv hmem hctl hu
  | collaborator _ h =>
    cases h with
    | nothing => exact hu
    | deliversOk _ hreq => exact State.gridInv_of_outside (by simp [State.phaseNo, hctl.request.mp hreq, Phase.code])
    | deliversFail => exact hu
  | reset | start | clear => exact State.gridInv_of_outside (by simp [State.phaseNo, Phase.code])
  | writeLen | writeBody | read | nothing => exact hu

/-- Settles O48: each row of `ROWS` is added to the rows before it, which its commit leaves alone. -/
theorem gridIsTheReconstructionOfInflatedRows : Obligations.GridIsTheReconstructionOfInflatedRows := fun s _ hmem hctl hs hstep =>
  (agentStep_of_step hstep).gridInv (u := s.taken) hmem (controlInv_afterTurn hctl _) hs

end Sys2Proof.Machine

/-! ### Rows of two states (43_scanline_reconstructor section 6) -/

namespace Sys2Proof.Machine

section
variable {s t : State} {ft ft' : Byte} {pred : Byte → Byte → Byte → Byte}

/-- Two states that agree on the record's stored bytes and on the previous row reconstruct the same row (R178). -/
theorem read_reconstructRow_curRow_congr (hs : s.curRow.wf = true) (ht : t.curRow.wf = true) (hrb : s.rowBytes = t.rowBytes)
    (hrow : s.row = t.row)
    (hinfl : ∀ i, i < s.rowBytes.toNat → Memory.read s.infl (s.rowOffset + 1 + i) = Memory.read t.infl (s.rowOffset + 1 + i))
    (hprev : ∀ i, i < s.rowBytes.toNat → Memory.read s.prevRow i = Memory.read t.prevRow i) {i : Nat} (hi : i < s.rowBytes.toNat) :
    Memory.read (reconstructRow ft pred s).curRow i = Memory.read (reconstructRow ft' pred t).curRow i := by
  have hoff : t.rowOffset = s.rowOffset := by rw [State.rowOffset, State.rowOffset, hrow, hrb]
  rw [State.reconstructRow_curRow, State.reconstructRow_curRow, hoff, ← hrb]
  exact read_rowLoop_congr hs ht hinfl hprev hi

end

/-- The row instruction of a legal filter byte, by name (R91). -/
theorem rowInstr_cases {ins : Instr} (h : ins = .rowNone ∨ ins = .rowSub ∨ ins = .rowUp ∨ ins = .rowAvg ∨ ins = .rowPaeth) :
    ∃ ft : Byte, ft.toNat ≤ 4 ∧ ins = decodeRow ft := by
  obtain rfl | rfl | rfl | rfl | rfl := h
  · exact ⟨0#8, by decide, rfl⟩
  · exact ⟨1#8, by decide, rfl⟩
  · exact ⟨2#8, by decide, rfl⟩
  · exact ⟨3#8, by decide, rfl⟩
  · exact ⟨4#8, by decide, rfl⟩

/-- Settles O36: the row in `CUR_ROW` is the same in both, and the commit copies it. -/
theorem rowDependsOnlyOnItsRecordAndThePreviousRow : Obligations.RowDependsOnlyOnItsRecordAndThePreviousRow := by
  intro s t s' t' ins hins hs ht hrb hrow hinfl hprev hs' ht' i hi
  obtain ⟨ft, hft, rfl⟩ := rowInstr_cases hins
  rw [exec_decodeRow hft] at hs' ht'
  cases hs'
  cases ht'
  obtain ⟨_, _, _, hsprev, hscur, hsgrid⟩ := s.memoriesCanonical_iff.mp hs
  obtain ⟨_, _, _, htprev, htcur, htgrid⟩ := t.memoriesCanonical_iff.mp ht
  have hcur := read_reconstructRow_curRow_congr (ft := ft) (ft' := ft) (pred := predictorOf ft) hscur htcur hrb hrow hinfl hprev hi
  have hi' : i < t.rowBytes.toNat := hrb ▸ hi
  refine ⟨hcur, ?_, ?_⟩
  · rw [read_reconstructRow_prevRow hsprev hi, read_reconstructRow_prevRow htprev hi', hcur]
  · have hsrow := sample_reconstructRow_row (ft := ft) (pred := predictorOf ft) hsgrid hi
    have htrow := sample_reconstructRow_row (ft := ft) (pred := predictorOf ft) htgrid hi'
    rw [State.sample, State.reconstructRow_rowBytes] at hsrow htrow
    rw [hsrow, hrow, hrb, htrow, hcur]

/-- The record of the row at hand ends within the inflated stream, whose length `LENCHECK` has compared with `NEED` (R55, R160). -/
theorem State.ControlInv.record_le {s : State} (h : s.ControlInv) (hp : s.phase = .rows) (hlt : s.row.toNat < s.hdrHeight.toNat) :
    s.rowOffset + 1 + s.rowBytes.toNat ≤ s.inflLen := by
  obtain ⟨hlo, hhi⟩ := State.phaseNo_mem hp (lo := 7) (hi := 9) (by decide)
  obtain ⟨hrb, hneed, hle⟩ := h.lengths hlo hhi
  calc s.rowOffset + 1 + s.rowBytes.toNat = (s.row.toNat + 1) * (1 + s.rowBytes.toNat) := by
        rw [State.rowOffset, Nat.succ_mul, Nat.add_assoc]
    _ ≤ s.hdrHeight.toNat * (1 + s.rowBytes.toNat) := Nat.mul_le_mul_right _ hlt
    _ = s.need.toNat := by rw [hneed, hrb]; rfl
    _ ≤ s.inflLen := hle

/-! ### Stale contents never influence a decode (44_pipeline_driver sections 2 and 6) -/

/-- What an action answers, as `step` has it. -/
def Action.outcome : Action → Host.Outcome State Fault Refusal
  | .run i s => exec i s
  | .effect o => o

theorem step_cons {s : State} {x : Turn} {rest : List Turn} (h : s.agenda = x :: rest) :
    step s = (turnAction x (s.afterTurn rest)).outcome := by
  rw [step, takeTurn, h]
  rfl

theorem writeRegTurn_bodyLen (v : Nat) (s : State) :
    writeRegTurn 5#5 v s = .effect (.next (if s.busy then s else { s with bodyLen := v })) := rfl

/-- A write of any register but `CMD` and `BODY_LEN` is ignored (R21). -/
theorem writeRegTurn_ignored {index : BitVec 5} (h0 : index ≠ 0#5) (h5 : index ≠ 5#5) (v : Nat) (s : State) :
    writeRegTurn index v s = .effect (.next s) := by
  obtain ⟨h, -⟩ | ⟨h, -⟩ | ⟨-, -, h⟩ := writeRegTurn_cases index v s
  · exact absurd h h0
  · exact absurd h h5
  · exact h

/-- The four commands (R94). -/
theorem decodeCmd_cases (c : BitVec 2) :
    decodeCmd c = .cmdNop ∨ decodeCmd c = .cmdStart ∨ decodeCmd c = .cmdClear ∨ decodeCmd c = .cmdReserved := by
  unfold decodeCmd
  split <;> simp

/-- Whatever `o` answers, `o'` answers the like of it. -/
def SameOutcome (o o' : Host.Outcome State Fault Refusal) : Prop := ∀ s', o = .next s' → ∃ t', o' = .next t' ∧ s'.SameDecode t'

theorem sameOutcome_next {s t : State} (h : s.SameDecode t) : SameOutcome (.next s) (.next t) := by
  rintro s' ⟨⟩
  exact ⟨t, rfl, h⟩

theorem sameOutcome_ite {c c' : Prop} [Decidable c] [Decidable c'] {a b a' b' : Host.Outcome State Fault Refusal} (hc : c ↔ c')
    (ha : c → SameOutcome a a') (hb : ¬ c → SameOutcome b b') : SameOutcome (if c then a else b) (if c' then a' else b') := by
  by_cases h : c
  · rw [if_pos h, if_pos (hc.mp h)]; exact ha h
  · rw [if_neg h, if_neg (mt hc.mpr h)]; exact hb h

/-- A command's writes make two states alike that have the same body and collaborator and no answer waiting (R201, R202). -/
theorem State.SameDecode.of_clearDecode {s t : State} (p : Phase) (hbody : s.body = t.body) (hlen : s.bodyLen = t.bodyLen)
    (hcollab : s.collab = t.collab) (hagenda : s.agenda = t.agenda) (hans : s.inflAnswer = t.inflAnswer) :
    State.SameDecode { s.clearDecode with phase := p } { t.clearDecode with phase := p } := by
  constructor <;> simp [AgreeOn, hbody, hlen, hcollab, hagenda, hans]

section
variable {s t : State} (h : s.SameDecode t)
include h

theorem State.SameDecode.afterTurn (rest : List Turn) : (s.afterTurn rest).SameDecode (t.afterTurn rest) :=
  { h with agenda := rfl }

theorem State.SameDecode.busy_eq : s.busy = t.busy := by rw [State.busy, State.busy, h.phase]

theorem State.SameDecode.resetEvent : s.resetEvent.SameDecode t.resetEvent := by
  constructor <;> simp [State.resetEvent, State.reset, AgreeOn, h.agenda, h.collab]

/-! #### The writes of a step, on both sides -/

theorem State.SameDecode.raise (e : PngError) {i0 i0' i1 i1' : Nat} (h0 : i0 = i0') (h1 : i1 = i1') :
    (s.raise e i0 i1).SameDecode (t.raise e i0' i1') :=
  { h with
    errCode := rfl, errInfo0 := h0, errInfo1 := h1, hdrValid := rfl, inflReq := rfl, phase := rfl
    prevRow := Phase.noConfusion
    grid := fun _ hhi => absurd hhi (by simp [State.phaseNo, Phase.code]) }

/-- Entering a phase before `ROWS` asks nothing of the row memories. -/
theorem State.SameDecode.enter {p : Phase} (hp : p.code.toNat < 7) :
    State.SameDecode { s with phase := p } { t with phase := p } :=
  { h with
    phase := rfl
    prevRow := fun hrows => absurd hp (by rw [show p = .rows from hrows]; decide)
    grid := fun hlo _ => absurd hp (Nat.not_lt.mpr hlo) }

theorem State.SameDecode.framed {typ typ' len len' : U32} (htyp : typ = typ') (hlen : len = len') :
    (s.framed typ len).SameDecode (t.framed typ' len') :=
  { h with
    chunkTable := by simp only [State.framed, h.chunkTable, h.pos, htyp, hlen]
    pos := by simp only [State.framed, h.pos, hlen] }

theorem State.SameDecode.withHeader (off : Nat) : (s.withHeader off).SameDecode (t.withHeader off) :=
  { h with
    hdrWidth := by simp only [State.withHeader, h.body]
    hdrHeight := by simp only [State.withHeader, h.body]
    hdrBitDepth := by simp only [State.withHeader, h.body]
    hdrColorType := by simp only [State.withHeader, h.body]
    hdrCompression := by simp only [State.withHeader, h.body]
    hdrFilter := by simp only [State.withHeader, h.body]
    hdrInterlace := by simp only [State.withHeader, h.body] }

/-! #### The micro-operations, on both sides -/

theorem State.SameDecode.seqFrame : SameOutcome (execSeqFrame s) (execSeqFrame t) := by
  have hlen : Memory.read4 s.body s.pos = Memory.read4 t.body t.pos := by rw [h.body, h.pos]
  have htyp : Memory.read4 s.body (s.pos + 4) = Memory.read4 t.body (t.pos + 4) := by rw [h.body, h.pos]
  have hleft : s.bodyLen - s.pos = t.bodyLen - t.pos := by rw [h.bodyLen, h.pos]
  rw [execSeqFrame_eq, execSeqFrame_eq]
  refine sameOutcome_ite (by rw [h.pos, h.bodyLen]) (fun _ => sameOutcome_next (h.enter (by decide))) fun _ => ?_
  refine sameOutcome_ite (by rw [hleft]) (fun _ => sameOutcome_next (h.raise _ h.pos hleft)) fun _ => ?_
  refine sameOutcome_ite (by rw [hleft, hlen]) (fun _ => sameOutcome_next (h.raise _ h.pos (by rw [hlen]))) fun _ => ?_
  exact sameOutcome_next (h.framed htyp hlen)

theorem State.SameDecode.seqHeader : SameOutcome (execSeqHeader s) (execSeqHeader t) := by
  have hfirst : t.firstEntry = s.firstEntry := by rw [State.firstEntry, State.firstEntry, h.chunkTable]
  rw [execSeqHeader_eq, execSeqHeader_eq, hfirst]
  cases s.firstEntry with
  | none => exact sameOutcome_next (h.raise _ rfl rfl)
  | some e =>
    refine sameOutcome_ite Iff.rfl (fun _ => sameOutcome_next (h.raise _ rfl rfl)) fun _ => ?_
    refine sameOutcome_ite Iff.rfl (fun _ => sameOutcome_next (h.raise _ rfl rfl)) fun _ => ?_
    exact sameOutcome_next { (h.withHeader e.payOff).enter (p := .validate) (by decide) with hdrValid := rfl }

theorem State.SameDecode.seqValidate : SameOutcome (execSeqValidate s) (execSeqValidate t) := by
  refine sameOutcome_ite (by rw [h.hdrBitDepth]) (fun _ => sameOutcome_next (h.raise _ rfl (by rw [h.hdrBitDepth]))) fun _ => ?_
  refine sameOutcome_ite (by rw [h.hdrColorType]) (fun _ => sameOutcome_next (h.raise _ rfl (by rw [h.hdrColorType]))) fun _ => ?_
  refine sameOutcome_ite (by rw [h.hdrCompression]) (fun _ => sameOutcome_next (h.raise _ rfl (by rw [h.hdrCompression]))) fun _ => ?_
  refine sameOutcome_ite (by rw [h.hdrFilter]) (fun _ => sameOutcome_next (h.raise _ rfl (by rw [h.hdrFilter]))) fun _ => ?_
  refine sameOutcome_ite (by rw [h.hdrInterlace]) (fun _ => sameOutcome_next (h.raise _ rfl (by rw [h.hdrInterlace]))) fun _ => ?_
  exact sameOutcome_next
    { h.enter (p := .concat) (by decide) with ci := rfl, compLen := rfl, comp := fun i hi => absurd hi (Nat.not_lt_zero i) }

/-- The payload appended is the same, since it comes from `BODY` (R205). -/
theorem State.SameDecode.copied (hs : s.comp.wf = true) (ht : t.comp.wf = true) (len : U32) (off : Nat) :
    SameOutcome (copyChunk len off s) (copyChunk len off t) := by
  refine sameOutcome_next { h with compLen := by simp only [h.compLen], ci := by simp only [h.ci], comp := fun i hi => ?_ }
  · simp only at hi ⊢
    rw [Memory.read_writeBytes_readBytes hs, Memory.read_writeBytes_readBytes ht, ← h.compLen, ← h.body]
    split_ifs with hin
    · rfl
    · exact h.comp i (by omega)

theorem State.SameDecode.seqConcat (hs : s.comp.wf = true) (ht : t.comp.wf = true) :
    SameOutcome (execSeqConcat s) (execSeqConcat t) := by
  have hentry : t.ciEntry = s.ciEntry := by rw [State.ciEntry, State.ciEntry, h.chunkTable, h.ci]
  refine sameOutcome_ite (by rw [h.ci, State.nChunks, State.nChunks, h.chunkTable])
    (fun _ => sameOutcome_next { h.enter (p := .inflate) (by decide) with inflReq := rfl }) fun _ => ?_
  rw [hentry]
  cases s.ciEntry with
  | none => rintro s' ⟨⟩
  | some e =>
    exact sameOutcome_ite Iff.rfl (fun _ => h.copied hs ht e.payLen e.payOff)
      fun _ => sameOutcome_next { h with ci := by simp only [h.ci] }

theorem State.SameDecode.seqInflate : SameOutcome (execSeqInflate s) (execSeqInflate t) := by
  rw [execSeqInflate, execSeqInflate, ← h.inflAnswer]
  cases s.inflAnswer with
  | none => exact sameOutcome_next h
  | some verdict =>
    cases verdict with
    | ok => exact sameOutcome_next { h.enter (p := .lencheck) (by decide) with inflReq := rfl, inflAnswer := rfl }
    | fail =>
      have htaken : State.SameDecode { s with inflAnswer := none } { t with inflAnswer := none } := { h with inflAnswer := rfl }
      exact sameOutcome_next (htaken.raise _ h.compLen rfl)

theorem State.SameDecode.seqLencheck : SameOutcome (execSeqLencheck s) (execSeqLencheck t) := by
  refine sameOutcome_ite (by rw [h.inflLen, h.hdrWidth, h.hdrHeight]) (fun _ => sameOutcome_next (h.raise _ h.inflLen rfl))
    fun _ => sameOutcome_next { h with
      rowBytes := by simp only [h.hdrWidth]
      need := by simp only [h.hdrWidth, h.hdrHeight]
      row := rfl
      phase := rfl
      prevRow := fun _ i hi => ?_
      grid := fun _ _ i hi => absurd hi (by simp) }
  simp only [toNat_rowBytes] at hi
  rw [Memory.read_zeroBelow, Memory.read_zeroBelow, ← h.hdrWidth, if_pos hi, if_pos hi]

/-- Entering `ENDCHECK` or `DONE` keeps the rows written. -/
theorem State.SameDecode.leaveRows (hp : s.phase = .rows ∨ s.phase = .endcheck) {p : Phase} (hne : p ≠ .rows) :
    State.SameDecode { s with phase := p } { t with phase := p } := by
  have hgrid : AgreeOn s.grid t.grid (s.row.toNat * s.rowBytes.toNat) := by
    obtain ⟨hlo, hhi⟩ : 7 ≤ s.phaseNo ∧ s.phaseNo ≤ 9 := by
      obtain hp | hp := hp <;> exact State.phaseNo_mem hp (by decide)
    exact h.grid hlo hhi
  exact { h with phase := rfl, prevRow := fun hrows => absurd hrows hne, grid := fun _ _ => hgrid }

theorem State.SameDecode.seqEndcheck (hp : s.phase = .endcheck) : SameOutcome (execSeqEndcheck s) (execSeqEndcheck t) := by
  have hlast : t.lastEntry = s.lastEntry := by rw [State.lastEntry, State.lastEntry, h.chunkTable]
  rw [execSeqEndcheck, execSeqEndcheck, hlast]
  cases s.lastEntry with
  | none => rintro s' ⟨⟩
  | some e =>
    refine sameOutcome_ite Iff.rfl (fun _ => sameOutcome_next (h.raise _ rfl rfl)) fun _ => ?_
    exact sameOutcome_ite Iff.rfl (fun _ => sameOutcome_next (h.raise _ rfl rfl))
      fun _ => sameOutcome_next (h.leaveRows (.inr hp) Phase.noConfusion)

/-- The same record and the same previous row give the same row, in `PREV_ROW` and in `GRID` (R171, R178). -/
theorem State.SameDecode.reconstructRow (hsmem : s.memoriesCanonical = true) (htmem : t.memoriesCanonical = true)
    (hp : s.phase = .rows) (hlt : s.row.toNat < s.hdrHeight.toNat) (hrecord : s.rowOffset + 1 + s.rowBytes.toNat ≤ s.inflLen)
    (ft : Byte) (pred : Byte → Byte → Byte → Byte) : (reconstructRow ft pred s).SameDecode (reconstructRow ft pred t) := by
  obtain ⟨_, _, _, hsprev, hscur, hsgrid⟩ := s.memoriesCanonical_iff.mp hsmem
  obtain ⟨_, _, _, htprev, htcur, htgrid⟩ := t.memoriesCanonical_iff.mp htmem
  have hcur {i : Nat} (hi : i < s.rowBytes.toNat) := read_reconstructRow_curRow_congr (ft := ft) (ft' := ft) (pred := pred)
    hscur htcur h.rowBytes h.row (fun i hi => h.infl _ (by omega)) (h.prevRow hp) hi
  refine { h with row := by simp only [State.reconstructRow_row, h.row], prevRow := fun _ i hi => ?_, grid := fun _ _ a ha => ?_ }
  · replace hi : i < s.rowBytes.toNat := hi
    rw [read_reconstructRow_prevRow hsprev hi, read_reconstructRow_prevRow htprev (h.rowBytes ▸ hi), hcur hi]
  · have hrow : (s.row + 1#33).toNat = s.row.toNat + 1 := toNat_row_succ hlt
    replace ha : a < s.row.toNat * s.rowBytes.toNat + s.rowBytes.toNat := by
      rw [← Nat.succ_mul, Nat.succ_eq_add_one, ← hrow]; exact ha
    by_cases habove : a < s.row.toNat * s.rowBytes.toNat
    · have habove' : a < t.row.toNat * t.rowBytes.toNat := by rwa [← h.row, ← h.rowBytes]
      rw [State.reconstructRow_grid, Memory.read_copy_outside hsgrid _ (.inl habove), State.reconstructRow_grid,
        Memory.read_copy_outside htgrid _ (.inl habove')]
      obtain ⟨hlo, hhi⟩ := State.phaseNo_mem hp (lo := 7) (hi := 9) (by decide)
      exact h.grid hlo hhi a habove
    · obtain ⟨i, rfl⟩ := Nat.exists_eq_add_of_le (Nat.not_lt.mp habove)
      have hi : i < s.rowBytes.toNat := by omega
      have hsrow := sample_reconstructRow_row (ft := ft) (pred := pred) hsgrid hi
      have htrow := sample_reconstructRow_row (ft := ft) (pred := pred) htgrid (h.rowBytes ▸ hi)
      rw [State.sample, State.reconstructRow_rowBytes] at hsrow htrow
      rw [hsrow, h.row, h.rowBytes, htrow, hcur hi]

theorem State.SameDecode.seqRows (hctl : s.ControlInv) (hsmem : s.memoriesCanonical = true) (htmem : t.memoriesCanonical = true)
    (hp : s.phase = .rows) : SameOutcome (execSeqRows s) (execSeqRows t) := by
  refine sameOutcome_ite (by rw [h.row, h.hdrHeight]) (fun _ => sameOutcome_next (h.leaveRows (.inl hp) Phase.noConfusion))
    fun hrow => ?_
  have hlt : s.row.toNat < s.hdrHeight.toNat := lt_of_le_of_ne (hctl.rows hp) hrow
  have hrecord := hctl.record_le hp hlt
  have hfilter : s.filterByte = t.filterByte := by
    rw [State.filterByte, h.infl _ (by omega), State.filterByte, State.rowOffset, State.rowOffset, h.row, h.rowBytes]
  rw [← hfilter]
  refine sameOutcome_ite Iff.rfl (fun _ => sameOutcome_next (h.raise _ (by rw [h.row]) rfl)) fun _ => ?_
  exact sameOutcome_next (h.reconstructRow hsmem htmem hp hlt hrecord _ _)

/-- The sequencer's step, on both sides. -/
theorem State.SameDecode.seqStep (hctl : s.ControlInv) (hsmem : s.memoriesCanonical = true) (htmem : t.memoriesCanonical = true) :
    SameOutcome (exec (seqInstrOf s.phase) s) (exec (seqInstrOf t.phase) t) := by
  obtain ⟨_, hscomp, _⟩ := s.memoriesCanonical_iff.mp hsmem
  obtain ⟨_, htcomp, _⟩ := t.memoriesCanonical_iff.mp htmem
  rw [← h.phase]
  cases hp : s.phase with
  | idle | done | error => exact sameOutcome_next h
  | frame => exact h.seqFrame
  | header => exact h.seqHeader
  | validate => exact h.seqValidate
  | concat => exact h.seqConcat hscomp htcomp
  | inflate => exact h.seqInflate
  | lencheck => exact h.seqLencheck
  | rows => exact h.seqRows hctl hsmem htmem hp
  | endcheck => exact h.seqEndcheck hp

/-! #### The other agents, on both sides -/

/-- The answer is a function of `COMP[0..COMP_LEN)` and of the collaborator (R207). -/
theorem State.SameDecode.collaboratorTurn (hs : s.infl.wf = true) (ht : t.infl.wf = true) :
    (collaboratorTurn s).SameDecode (collaboratorTurn t) := by
  have hsub : t.submitted = s.submitted := by
    rw [State.submitted, State.submitted, ← h.compLen]
    exact Memory.readBytes_congr fun i hi => by rw [Nat.zero_add]; exact (h.comp i hi).symm
  have hans : answerFor t.collab t.submitted = answerFor s.collab s.submitted := by rw [hsub, h.collab]
  by_cases hr : s.inflReq = true ∧ s.inflAnswer = none
  · obtain ⟨hr, ha⟩ := hr
    rw [collaboratorTurn_answers hr ha, collaboratorTurn_answers (h.inflReq ▸ hr) (h.inflAnswer ▸ ha), hans]
    cases answerFor s.collab s.submitted with
    | none => exact h
    | some answer =>
      cases answer with
      | ok bytes =>
        refine { h with infl := fun i hi => ?_, inflLen := rfl, inflAnswer := rfl }
        simp only [State.deliver_ok_infl]
        have hin : 0 ≤ i ∧ i < 0 + bytes.length := ⟨Nat.zero_le i, by simpa using hi⟩
        rw [Memory.read_writeBytes hs, Memory.read_writeBytes ht, if_pos hin, if_pos hin]
      | fail => exact { h with inflAnswer := rfl }
  · have hidle : s.inflReq = false ∨ s.inflAnswer ≠ none := by
      cases hreq : s.inflReq with
      | false => exact .inl rfl
      | true => exact .inr fun ha => hr ⟨hreq, ha⟩
    rw [collaboratorTurn_idle hidle, collaboratorTurn_idle (by rwa [← h.inflReq, ← h.inflAnswer])]
    exact h

theorem State.SameDecode.command (c : BitVec 2) : SameOutcome (exec (decodeCmd c) s) (exec (decodeCmd c) t) := by
  have hbusy : s.busy = true ↔ t.busy = true := by rw [h.busy_eq]
  have cleared (p : Phase) := sameOutcome_next
    (State.SameDecode.of_clearDecode p h.body h.bodyLen h.collab h.agenda h.inflAnswer)
  obtain hc | hc | hc | hc := decodeCmd_cases c <;> rw [hc]
  · exact sameOutcome_next h
  · exact sameOutcome_ite hbusy (fun _ => sameOutcome_next h) fun _ => cleared .frame
  · exact sameOutcome_ite hbusy (fun _ => sameOutcome_next h) fun _ => cleared .idle
  · exact sameOutcome_next h

theorem State.SameDecode.writeReg (index : BitVec 5) (v : Nat) :
    SameOutcome (writeRegTurn index v s).outcome (writeRegTurn index v t).outcome := by
  by_cases h0 : index = 0#5
  · subst h0
    exact h.command _
  by_cases h5 : index = 5#5
  · subst h5
    rw [writeRegTurn_bodyLen, writeRegTurn_bodyLen, Action.outcome, Action.outcome, ← h.busy_eq]
    cases s.busy with
    | true => exact sameOutcome_next h
    | false => exact sameOutcome_next { h with bodyLen := rfl }
  · rw [writeRegTurn_ignored h0 h5, writeRegTurn_ignored h0 h5]
    exact sameOutcome_next h

theorem State.SameDecode.writeBody (a : Nat) (v : Byte) : SameOutcome (writeBodyTurn a v s) (writeBodyTurn a v t) :=
  sameOutcome_ite (by rw [h.busy_eq]) (fun _ _ hnext => nomatch hnext)
    fun _ => sameOutcome_next { h with body := by simp only [h.body] }

/-- One agent's turn, on both sides. What a host read is given is no part of a decode. -/
theorem State.SameDecode.turn (hctl : s.ControlInv) (hsmem : s.memoriesCanonical = true) (htmem : t.memoriesCanonical = true)
    (x : Turn) : SameOutcome (turnAction x s).outcome (turnAction x t).outcome := by
  obtain ⟨_, _, hsinfl, _⟩ := s.memoriesCanonical_iff.mp hsmem
  obtain ⟨_, _, htinfl, _⟩ := t.memoriesCanonical_iff.mp htmem
  cases x with
  | sequencer =>
    rw [turnAction, turnAction, sequencerTurn_eq, sequencerTurn_eq]
    exact h.seqStep hctl hsmem htmem
  | collaborator => exact sameOutcome_next (h.collaboratorTurn hsinfl htinfl)
  | reset => exact sameOutcome_next h.resetEvent
  | writeReg index v => exact h.writeReg index v
  | writeBody a v => exact h.writeBody a v
  | readReg | readBody | readGrid => exact sameOutcome_next { h with }

theorem State.SameDecode.step (hctl : s.ControlInv) (hsmem : s.memoriesCanonical = true) (htmem : t.memoriesCanonical = true) :
    SameOutcome (step s) (step t) := by
  cases ha : s.agenda with
  | nil =>
    rw [step_nil ha, step_nil (h.agenda ▸ ha)]
    exact h.seqStep hctl hsmem htmem
  | cons x rest =>
    rw [step_cons ha, step_cons (h.agenda ▸ ha)]
    exact (h.afterTurn rest).turn (controlInv_afterTurn hctl rest) hsmem htmem x

/-- In `DONE` the rows written are the whole image, so the results agree (R213). -/
theorem State.SameDecode.result_eq (hctl : s.ControlInv) : s.result = t.result := by
  have hdone : t.isDone = s.isDone := by rw [State.isDone, State.isDone, h.phase]
  have herr : t.isErr = s.isErr := by rw [State.isErr, State.isErr, h.phase]
  rw [State.result, State.result, hdone, herr]
  by_cases hp : s.phase = .done
  · have hgrid : Memory.readBytes s.grid 0 (Config.channels * s.hdrWidth.toNat * s.hdrHeight.toNat) =
        Memory.readBytes t.grid 0 (Config.channels * s.hdrWidth.toNat * s.hdrHeight.toNat) := by
      obtain ⟨hlo, hhi⟩ := State.phaseNo_mem hp (lo := 8) (hi := 9) (by decide)
      obtain ⟨hrb, -, -⟩ := hctl.lengths (Nat.le_of_succ_le hlo) hhi
      have hbytes : s.row.toNat * s.rowBytes.toNat = Config.channels * s.hdrWidth.toNat * s.hdrHeight.toNat := by
        rw [hctl.rowsAll hlo hhi, hrb, rowBytesOf, Nat.mul_comm]
      refine Memory.readBytes_congr fun i hi => ?_
      rw [Nat.zero_add]
      exact h.grid (Nat.le_of_succ_le hlo) hhi i (hbytes ▸ hi)
    have hrows : s.gridRows = t.gridRows := by rw [State.gridRows, State.gridRows, hdone, h.hdrHeight]
    rw [hgrid, hrows, h.hdrWidth, h.hdrHeight, h.hdrBitDepth, h.hdrColorType, h.hdrCompression, h.hdrFilter, h.hdrInterlace,
      h.errCode, h.errInfo0, h.errInfo1]
  · simp only [State.isDone, hp, decide_false, Bool.false_eq_true, if_false, h.errCode, h.errInfo0, h.errInfo1]

end

/-- Settles O57: `START` clears what a decode reads, a step writes alike in states that are alike, and the result of `DONE` is
made of what they agree on. -/
theorem staleContentsNeverInfluenceADecode : Obligations.StaleContentsNeverInfluenceADecode := by
  refine ⟨?start, ?steps, ?results⟩
  case start =>
    intro s t hs ht hsb htb hbody hlen hcollab hagenda
    have hans : s.inflAnswer = t.inflAnswer := by
      rw [hs.portIdle (State.ne_inflate_of_not_busy hsb), ht.portIdle (State.ne_inflate_of_not_busy htb)]
    exact ⟨_, _, if_neg (by simp [hsb]), if_neg (by simp [htb]), .of_clearDecode .frame hbody hlen hcollab hagenda hans⟩
  case steps => exact fun s t s' h hctl hsmem htmem hstep => h.step hctl hsmem htmem s' hstep
  case results => exact fun s t h hctl => h.result_eq hctl

end Sys2Proof.Machine

/-! ### Encoding (30_encoding) -/

namespace Sys2Proof.Machine

/-- A record's two header fields decode to the instruction of their length and type, whatever follows (R81, R90). -/
theorem decode_chunk_beBytes (len typ : U32) (rest : List Byte) :
    decode .chunk ((beBytes len ++ beBytes typ) ++ rest) = .ok (decodeChunk len typ, rest) := by
  have h : decode .chunk ((beBytes len ++ beBytes typ) ++ rest) =
      .ok (decodeChunk
        (be32 (len.extractLsb' 24 8) (len.extractLsb' 16 8) (len.extractLsb' 8 8) (len.extractLsb' 0 8))
        (be32 (typ.extractLsb' 24 8) (typ.extractLsb' 16 8) (typ.extractLsb' 8 8) (typ.extractLsb' 0 8)), rest) := rfl
  rw [h, be32_beBytes, be32_beBytes]

/-- The type codes of `CHUNK.OTHER` are those no earlier row matches (R90). -/
theorem isOtherType_iff (typ : U32) :
    Instr.isOtherType typ = true ↔ typ ≠ Config.typeIhdr ∧ typ ≠ Config.typeIdat ∧ typ ≠ Config.typeIend := by
  simp [Instr.isOtherType, and_assoc]

theorem decodeChunk_other {typ : U32} (h : Instr.isOtherType typ = true) (len : U32) :
    decodeChunk len typ = .chunkOther len typ := by
  obtain ⟨hihdr, hidat, hiend⟩ := (isOtherType_iff typ).mp h
  rw [decodeChunk, if_neg hihdr, if_neg hidat, if_neg hiend]

/-- A filter byte is one of the five types, or illegal and decoded as it stands (R91). -/
theorem decodeRow_illegal {ft : Byte} (h : Instr.isIllegalFilter ft = true) : decodeRow ft = .rowIllegal ft := by
  have hft : 4 < ft.toNat := by simpa [Instr.isIllegalFilter] using h
  unfold decodeRow
  split
  case h_6 => rfl
  all_goals omega

/-- Settles O58: a chunk's fields are read back from their bytes; every other encoding is one selector byte. -/
theorem decodeOfEncodeIsTheInstruction : Obligations.DecodeOfEncodeIsTheInstruction := by
  intro i f bytes rest hwf henc
  cases i <;> simp only [encode, Option.some.injEq, Prod.mk.injEq, reduceCtorEq] at henc <;> obtain ⟨rfl, rfl⟩ := henc
  case chunkIhdr | chunkIdat | chunkIend => exact decode_chunk_beBytes ..
  case chunkOther len typ => rw [decode_chunk_beBytes, decodeChunk_other hwf]
  case rowIllegal ft => exact congrArg (fun i => Except.ok (i, rest)) (decodeRow_illegal hwf)
  all_goals rfl

/-- Settles O59: by the type, then by the filter byte. -/
theorem everyRecordDecodesAndEncodesBack : Obligations.EveryRecordDecodesAndEncodesBack := by
  refine ⟨fun len typ => ?chunk, fun ft => ?row⟩
  case chunk =>
    by_cases hother : Instr.isOtherType typ = true
    · rw [decodeChunk_other hother]
      exact ⟨hother, rfl⟩
    · obtain rfl | rfl | rfl : typ = Config.typeIhdr ∨ typ = Config.typeIdat ∨ typ = Config.typeIend := by
        rw [isOtherType_iff] at hother
        tauto
      all_goals exact ⟨rfl, rfl⟩
  case row =>
    by_cases hft : 4 < ft.toNat
    · have hill : Instr.isIllegalFilter ft = true := decide_eq_true hft
      rw [decodeRow_illegal hill]
      exact ⟨hill, rfl⟩
    · obtain rfl | rfl | rfl | rfl | rfl := filter_cases hft
      all_goals exact ⟨rfl, rfl⟩

/-- Settles O60: the decoder run on each word. -/
theorem writtenOutWordsDecode : Obligations.WrittenOutWordsDecode :=
  ⟨rfl, rfl, rfl, rfl, rfl, rfl, rfl, rfl, rfl, rfl⟩

end Sys2Proof.Machine

/-! ### The register map and the host's accesses (10_state) -/

namespace Sys2Proof.Machine

/-- The reserved indices read 0 (R21). -/
theorem State.readReg_reserved (s : State) {i : BitVec 5} (hi : 17 ≤ i.toNat) : s.readReg i = 0 := by
  unfold State.readReg
  split
  case h_17 => rfl
  all_goals omega

theorem State.reset_readReg (i : BitVec 5) : State.reset.readReg i = 0 := by
  unfold State.readReg
  split <;> rfl

/-- Settles O4: the map is `State.readReg`'s own match; a write is one of the three of `writeRegTurn`. -/
theorem registerMapReadsAndIgnoredWrites : Obligations.RegisterMapReadsAndIgnoredWrites := by
  refine ⟨State.reset_readReg, fun s => ⟨?reads, ?ignored, ?bodyLen⟩⟩
  case reads =>
    exact ⟨rfl, rfl, rfl, rfl, rfl, rfl, rfl, rfl, rfl, rfl, rfl, rfl, rfl, rfl, rfl, rfl, rfl, fun i => s.readReg_reserved⟩
  case ignored =>
    intro i v rest ha h0 h5
    rw [step_cons ha, turnAction, writeRegTurn_ignored h0 h5]
    rfl
  case bodyLen =>
    intro v rest ha
    rw [step_cons ha, turnAction, writeRegTurn_bodyLen]
    exact ⟨fun hb => congrArg _ (if_neg (ne_true_of_eq_false hb)), fun hb => congrArg _ (if_pos hb)⟩

theorem State.inFlux_eq_false {s : State} (hb : s.busy = false) (hp : s.phase ≠ .error) : s.inFlux = false := by
  simp [State.inFlux, State.isErr, hb, hp]

/-- A read of `HDR_WIDTH` or `HDR_HEIGHT` is 32 bits wide in every phase (U26). -/
theorem State.hostReadReg_dimension_lt (s : State) {i : BitVec 5} (hi : i = 6#5 ∨ i = 7#5) : s.hostReadReg i < 2 ^ 32 := by
  cases hflux : s.inFlux with
  | true =>
    have hfree : s.hostReadReg i = s.free 32 := by obtain rfl | rfl := hi <;> simp [State.hostReadReg, hflux]
    exact hfree ▸ s.free_lt 32
  | false =>
    rw [State.hostReadReg_of_not_inFlux hflux]
    obtain rfl | rfl := hi
    · exact s.hdrWidth.isLt
    · exact s.hdrHeight.isLt

/-- A read of one of the five format bytes is 8 bits wide in every phase (U26). -/
theorem State.hostReadReg_format_lt (s : State) {i : BitVec 5} (hlo : 8 ≤ i.toNat) (hhi : i.toNat ≤ 12) : s.hostReadReg i < 256 := by
  cases hflux : s.inFlux with
  | true =>
    have hfree : s.hostReadReg i = s.free 8 := by
      unfold State.hostReadReg
      rw [if_neg (by simp; omega), if_pos (by simp [hflux, hlo, hhi])]
    exact hfree ▸ s.free_lt 8
  | false =>
    rw [State.hostReadReg_of_not_inFlux hflux]
    unfold State.readReg
    split
    case h_8 => exact s.hdrBitDepth.isLt
    case h_9 => exact s.hdrColorType.isLt
    case h_10 => exact s.hdrCompression.isLt
    case h_11 => exact s.hdrFilter.isLt
    case h_12 => exact s.hdrInterlace.isLt
    all_goals omega

theorem State.hostReadBody_lt (s : State) (a : Nat) : s.hostReadBody a < 256 := by
  unfold State.hostReadBody
  split
  · exact (Memory.read s.body a).isLt
  · exact s.free_lt 8

theorem State.hostReadGrid_lt (s : State) (a : Nat) : s.hostReadGrid a < 256 := by
  unfold State.hostReadGrid
  split
  · exact (Memory.read s.grid a).isLt
  · exact s.free_lt 8

/-- The bytes of the finished image are read as they are (R37). -/
theorem State.hostReadGrid_of_done {s : State} (hp : s.phase = .done) {a : Nat}
    (ha : a < Config.channels * s.hdrWidth.toNat * s.hdrHeight.toNat) :
    s.hostReadGrid a = (Memory.read s.grid a).toNat :=
  if_pos (by simpa [State.isDone, hp] using ha)

/-- Settles O5: a read is `State.answerHost` of the value above; a write of `BODY` is one store into a canonical memory. -/
theorem hostAccessesReachOnlyTheirByte : Obligations.HostAccessesReachOnlyTheirByte := by
  refine fun s rest => ⟨?register, ?body, ?grid, ?write⟩
  case register =>
    refine fun i ha => ⟨s.hostReadReg i, _, step_cons ha, ?_, s.hostReadReg_dimension_lt, s.hostReadReg_format_lt⟩
    rintro (⟨hb, hp⟩ | hi)
    · exact State.hostReadReg_of_not_inFlux (State.inFlux_eq_false hb hp) i
    · exact s.hostReadReg_of_index hi
  case body => exact fun a ha => ⟨s.hostReadBody a, _, step_cons ha, s.hostReadBody_lt a, fun hlt => if_pos hlt⟩
  case grid => exact fun a ha => ⟨s.hostReadGrid a, _, step_cons ha, s.hostReadGrid_lt a, fun hp hlt => State.hostReadGrid_of_done hp hlt⟩
  case write =>
    intro a v ha
    rw [step_writeBody ha]
    exact ⟨fun hwf hb => ⟨_, if_neg (ne_true_of_eq_false hb), fun b => Memory.read_write hwf a b v⟩, fun hb => if_pos hb⟩

/-! ### Phases that only a command or reset leaves (44_pipeline_driver, 60_exceptions) -/

/-- The sequencer takes no step of its own while not busy (R201, R211, R240). -/
theorem SeqStep.eq_of_not_busy {u t : State} (h : SeqStep u t) (hb : u.busy = false) : t = u := by
  have hne : ¬ u.busy = true := by simp [hb]
  cases h with
  | waits => rfl
  | raises _ _ _ hbusy => exact absurd hbusy hne
  | _ => exact absurd (busy_of_phase ‹u.phase = _› rfl) hne

/-- What can become of a block that is not busy: nothing a result is made of changes, or the host's `START` or `CLEAR`, or reset. -/
theorem AgentStep.of_not_busy {u t : State} {x : Turn} (h : AgentStep u x t) (hb : u.busy = false) :
    t = { u with
      infl := t.infl, inflLen := t.inflLen, inflAnswer := t.inflAnswer, bodyLen := t.bodyLen, body := t.body
      hostRead := t.hostRead, freeCount := t.freeCount } ∨
    (∃ v, x = .writeReg 0#5 v ∧ v % 4 = 1 ∧ t = { u.clearDecode with phase := .frame }) ∨
    (∃ v, x = .writeReg 0#5 v ∧ v % 4 = 2 ∧ t = { u.clearDecode with phase := .idle }) ∨
    (x = .reset ∧ t = u.resetEvent) := by
  cases h with
  | sequencer _ h => exact .inl (by rw [h.eq_of_not_busy hb])
  | collaborator _ h => exact .inl (by rw [h.frame])
  | reset hx => exact .inr (.inr (.inr ⟨hx, rfl⟩))
  | start v hx hv => exact .inr (.inl ⟨v, hx, hv, rfl⟩)
  | clear v hx hv => exact .inr (.inr (.inl ⟨v, hx, hv, rfl⟩))
  | writeLen | writeBody | read | nothing => exact .inl rfl

theorem State.not_busy_of_phase {s : State} (hp : s.phase = .idle ∨ s.phase = .done ∨ s.phase = .error) : s.busy = false := by
  obtain hp | hp | hp := hp <;> simp [State.busy, hp, Phase.code]

/-- The same with the turn read off the agenda. -/
theorem step_of_not_busy {s t : State} (hb : s.busy = false) (h : step s = .next t) :
    t = { s with
      agenda := t.agenda, infl := t.infl, inflLen := t.inflLen, inflAnswer := t.inflAnswer, bodyLen := t.bodyLen, body := t.body
      hostRead := t.hostRead, freeCount := t.freeCount } ∨
    ((∃ v rest, s.agenda = .writeReg 0#5 v :: rest ∧ v % 4 = 1) ∧ t = { s.taken.clearDecode with phase := .frame }) ∨
    ((∃ v rest, s.agenda = .writeReg 0#5 v :: rest ∧ v % 4 = 2) ∧ t = { s.taken.clearDecode with phase := .idle }) ∨
    ((∃ rest, s.agenda = .reset :: rest) ∧ t = s.taken.resetEvent) := by
  obtain ht | ⟨v, hx, hv, rfl⟩ | ⟨v, hx, hv, rfl⟩ | ⟨hx, rfl⟩ := (agentStep_of_step h).of_not_busy hb
  · exact .inl (by rw [ht]; rfl)
  · obtain ⟨rest, ha⟩ := State.agenda_of_turn hx Turn.noConfusion
    exact .inr (.inl ⟨⟨v, rest, ha, hv⟩, rfl⟩)
  · obtain ⟨rest, ha⟩ := State.agenda_of_turn hx Turn.noConfusion
    exact .inr (.inr (.inl ⟨⟨v, rest, ha, hv⟩, rfl⟩))
  · exact .inr (.inr (.inr ⟨State.agenda_of_turn hx Turn.noConfusion, rfl⟩))

/-- Settles O9: of the steps of a block that is not busy only `START` and `CLEAR`, and reset, touch `PHASE`, and two of them lead
to `IDLE`. -/
theorem idleIsLeftOnlyByStart : Obligations.IdleIsLeftOnlyByStart := by
  intro s t hp hstep hleft
  obtain ht | ⟨⟨v, rest, ha, hv⟩, rfl⟩ | ⟨-, rfl⟩ | ⟨-, rfl⟩ := step_of_not_busy (State.not_busy_of_phase (.inl hp)) hstep
  · exact absurd ((congrArg State.phase ht).trans hp) hleft
  · exact ⟨rfl, v, rest, ha, hv⟩
  · exact absurd rfl hleft
  · exact absurd rfl hleft

/-- Settles O38: the micro-operations of the two phases are no step; of the other agents only a command and reset reach what a
result is made of. -/
theorem doneAndErrorAreTerminal : Obligations.DoneAndErrorAreTerminal := by
  refine fun s => ⟨rfl, rfl, fun hp => ?_⟩
  have hwaits (u : State) : exec (seqInstrOf s.phase) u = .next u := by obtain hp | hp := hp <;> rw [hp] <;> rfl
  refine ⟨fun ha => ?noTurn, fun rest ha => ?sequencer, fun t hstep => ?anyTurn⟩
  case noTurn => rw [step_nil ha, hwaits]
  case sequencer => rw [step_sequencer ha, hwaits]; rfl
  case anyTurn =>
    obtain ht | ⟨⟨v, rest, ha, hv⟩, rfl⟩ | ⟨⟨v, rest, ha, hv⟩, rfl⟩ | ⟨⟨rest, ha⟩, rfl⟩ :=
      step_of_not_busy (State.not_busy_of_phase (.inr hp)) hstep
    · exact .inl ⟨(congrArg State.phase ht :), (congrArg State.result ht :)⟩
    · exact .inr (.inr (.inl ⟨rfl, rfl, v, rest, ha, hv⟩))
    · exact .inr (.inl ⟨rfl, v, rest, ha, hv⟩)
    · exact .inr (.inr (.inr ⟨rfl, rest, ha⟩))

/-- Settles O41: a command and reset clear the error registers, and no other step reaches them. -/
theorem errorIsLeftOnlyByClearStartOrReset : Obligations.ErrorIsLeftOnlyByClearStartOrReset := by
  intro s t hp hstep
  obtain ht | ⟨⟨v, rest, ha, hv⟩, rfl⟩ | ⟨⟨v, rest, ha, hv⟩, rfl⟩ | ⟨⟨rest, ha⟩, rfl⟩ :=
    step_of_not_busy (State.not_busy_of_phase (.inr (.inr hp))) hstep
  · exact .inl ⟨(congrArg State.phase ht).trans hp, (congrArg State.errCode ht :), (congrArg State.errInfo0 ht :),
      (congrArg State.errInfo1 ht :)⟩
  · exact .inr ⟨rfl, rfl, rfl, .inr (.inl ⟨rfl, rfl, v, rest, ha, hv⟩)⟩
  · exact .inr ⟨rfl, rfl, rfl, .inl ⟨rfl, v, rest, ha, hv⟩⟩
  · exact .inr ⟨rfl, rfl, rfl, .inr (.inr ⟨rfl, rest, ha⟩)⟩

end Sys2Proof.Machine

/-! ### The laws of the cursor (40_byte_cursor) -/

namespace Sys2Proof.Machine

/-- A 4-byte read depends on its four bytes alone (R50). -/
theorem Memory.read4_congr {m m' : Memory} {pos : Nat} (h : ∀ i, i < 4 → Memory.read m (pos + i) = Memory.read m' (pos + i)) :
    Memory.read4 m pos = Memory.read4 m' pos := by
  rw [Memory.read4, Memory.read4, show Memory.read m pos = Memory.read m' pos from h 0 (by decide), h 1 (by decide),
    h 2 (by decide), h 3 (by decide)]

theorem beBytes_read4 (m : Memory) (pos : Nat) :
    beBytes (Memory.read4 m pos) =
      [Memory.read m pos, Memory.read m (pos + 1), Memory.read m (pos + 2), Memory.read m (pos + 3)] := beBytes_be32 ..

/-- Settles O16: where the read is in bounds it is the bytes at the position, else the error of the position alone. -/
theorem cursorLawsHold : Obligations.CursorLawsHold := by
  intro m m' n pos hpos hagree
  refine ⟨?localU32, ?localU8, ?advanceU32, ?advanceU8⟩
  case localU32 =>
    by_cases h : 4 ≤ n - pos
    · rw [cursorU32_ok h, cursorU32_ok h, Memory.read4_congr fun i hi => hagree (pos + i) (by omega) (by omega)]
    · rw [cursorU32_error (by omega), cursorU32_error (by omega)]
  case localU8 =>
    by_cases h : 1 ≤ n - pos
    · rw [cursorU8_ok h, cursorU8_ok h, hagree pos le_rfl (by omega)]
    · rw [cursorU8_error (by omega), cursorU8_error (by omega)]
  case advanceU32 =>
    intro v p hread
    by_cases h : 4 ≤ n - pos
    · rw [cursorU32_ok h] at hread
      cases hread
      exact ⟨by omega, by omega, by omega, beBytes_read4 m pos⟩
    · rw [cursorU32_error (by omega)] at hread
      cases hread
  case advanceU8 =>
    intro v p hread
    by_cases h : 1 ≤ n - pos
    · rw [cursorU8_ok h] at hread
      cases hread
      exact ⟨by omega, by omega, by omega⟩
    · rw [cursorU8_error (by omega)] at hread
      cases hread

/-! ### The chunk instructions outside `FRAME` (41_chunk_reader section 2) -/

theorem exec_chunkIhdr (len : U32) (s : State) :
    exec (.chunkIhdr len) s =
      chunkInPhase Config.typeIhdr len (parseHeader len) (fun _ => passChunk) (lastNotIend Config.typeIhdr) s := rfl

theorem exec_chunkIdat (len : U32) (s : State) :
    exec (.chunkIdat len) s =
      chunkInPhase Config.typeIdat len (fun _ => firstNotIhdr Config.typeIdat) (copyChunk len) (lastNotIend Config.typeIdat) s := rfl

theorem exec_chunkIend (len : U32) (s : State) :
    exec (.chunkIend len) s =
      chunkInPhase Config.typeIend len (fun _ => firstNotIhdr Config.typeIend) (fun _ => passChunk) (endMarker len) s := rfl

theorem exec_chunkOther (len typ : U32) (s : State) :
    exec (.chunkOther len typ) s =
      chunkInPhase typ len (fun _ => firstNotIhdr typ) (fun _ => passChunk) (lastNotIend typ) s := rfl

section
variable {s : State} {e : ChunkEntry} {typ len : U32} {inHeader inConcat : Nat → State → Host.Outcome State Fault Refusal}
  {inEndcheck : State → Host.Outcome State Fault Refusal}

theorem chunkInPhase_frame (hp : s.phase = .frame) :
    chunkInPhase typ len inHeader inConcat inEndcheck s = frameChunk typ len s := by
  rw [chunkInPhase, hp]

theorem chunkInPhase_header (hp : s.phase = .header) (he : s.firstEntry = some e) :
    chunkInPhase typ len inHeader inConcat inEndcheck s = inHeader e.payOff s := by
  rw [chunkInPhase, hp, he]

theorem chunkInPhase_concat (hp : s.phase = .concat) (he : s.ciEntry = some e) :
    chunkInPhase typ len inHeader inConcat inEndcheck s = inConcat e.payOff s := by
  rw [chunkInPhase, hp, he]

theorem chunkInPhase_endcheck (hp : s.phase = .endcheck) (he : s.lastEntry = some e) :
    chunkInPhase typ len inHeader inConcat inEndcheck s = inEndcheck s := by
  rw [chunkInPhase, hp, he]

end

/-- Settles O22: each named type is the operation of the phase that examines it. -/
theorem namedChunksHaveTheirEffect : Obligations.NamedChunksHaveTheirEffect := by
  refine fun s len e => ⟨?header, ?concat, ?endcheck⟩
  case header =>
    intro hp he
    simp only [exec_chunkIhdr, chunkInPhase_header hp he, parseHeader_eq]
    exact ⟨if_neg (by decide), fun hlen => if_pos (mt (BitVec.toNat_inj (y := 13#32)).mp hlen)⟩
  case concat =>
    intro hp hcomp he
    rw [exec_chunkIdat, chunkInPhase_concat hp he]
    refine ⟨_, rfl, fun j hj => ?_, fun a ha => ?_⟩
    · rw [Memory.read_writeBytes_readBytes hcomp, if_pos (by omega), Nat.add_sub_cancel_left]
    · rw [Memory.read_writeBytes_readBytes hcomp, if_neg (by omega)]
  case endcheck =>
    intro hp he
    simp only [exec_chunkIend, chunkInPhase_endcheck hp he]
    exact ⟨if_neg (not_not_intro rfl), fun hlen => if_pos hlen⟩

/-! ### The collaborator (44_pipeline_driver section 4) -/

theorem Memory.read_writeBytes_zero {m : Memory} (h : m.wf = true) (bs : List Byte) {i : Nat} (hi : i < bs.length) :
    Memory.read (Memory.writeBytes m 0 bs) i = bs[i] := by
  rw [Memory.read_writeBytes h, if_pos ⟨Nat.zero_le i, by omega⟩, Nat.sub_zero, List.getD_eq_getElem _ _ hi]

/-- The collaborator's turn with a request to answer. -/
theorem step_collaborator_answers {s : State} {rest : List Turn} (ha : s.agenda = .collaborator :: rest) (hr : s.inflReq = true)
    (hw : s.inflAnswer = none) :
    step s = .next (match answerFor s.collab s.submitted with
      | none => s.afterTurn rest
      | some a => (s.afterTurn rest).deliver a) := by
  rw [step_collaborator ha, collaboratorTurn_answers (by exact hr) (by exact hw)]
  rfl

/-- Settles O27: the answer is what the table gives for the submitted bytes, which two states share that agree below `COMP_LEN`. -/
theorem collaboratorAnswersAFunctionOfComp : Obligations.CollaboratorAnswersAFunctionOfComp := by
  refine fun s rest hs => ⟨?idle, ?answers, ?twin⟩
  case idle =>
    intro h
    rw [step_collaborator hs, collaboratorTurn_idle (by exact h)]
    rfl
  case answers =>
    rintro hr hw a rfl
    have hstep := step_collaborator_answers hs hr hw
    refine ⟨fun hnone => ?_, fun bytes hok hwf => ?_, fun hfail => ?_⟩
    · rw [hstep, State.submitted, hnone]; rfl
    · refine ⟨_, by rw [hstep, State.submitted, hok]; rfl, fun i hi => Memory.read_writeBytes_zero hwf bytes hi, fun i hi => ?_⟩
      exact Memory.read_writeBytes_outside hwf (.inr (by omega))
    · rw [hstep, State.submitted, hfail]; rfl
  case twin =>
    intro t s' t' rest' ht hsr htr hsw htw hcollab hsinfl htinfl hlen hcomp hs' ht'
    have hsub : t.submitted = s.submitted := by
      rw [State.submitted, State.submitted, ← hlen]
      exact Memory.readBytes_congr fun i hi => by rw [Nat.zero_add]; exact (hcomp i hi).symm
    rw [step_collaborator_answers hs hsr hsw] at hs'
    rw [step_collaborator_answers ht htr htw, hsub, ← hcollab] at ht'
    cases hans : answerFor s.collab s.submitted with
    | none =>
      rw [hans] at hs' ht'
      cases hs'
      cases ht'
      exact ⟨hsw.trans htw.symm, fun hok => absurd (hsw.symm.trans hok) (by simp)⟩
    | some a =>
      rw [hans] at hs' ht'
      cases hs'
      cases ht'
      cases a with
      | ok bytes =>
        refine ⟨rfl, fun _ => ⟨rfl, fun i hi => ?_⟩⟩
        exact (Memory.read_writeBytes_zero hsinfl bytes hi).trans (Memory.read_writeBytes_zero htinfl bytes hi).symm
      | fail => exact ⟨rfl, fun hok => by simp at hok⟩

/-! ### The Paeth tie-break (43_scanline_reconstructor section 5) -/

/-- `paeth` with its three distances written out: `|b - c|`, `|a - c|` and `|a + b - 2c|` (R176). -/
theorem paeth_eq_dist (a b c : Byte) :
    paeth a b c =
      if |(b.toNat : Int) - c.toNat| ≤ |(a.toNat : Int) - c.toNat| ∧
          |(b.toNat : Int) - c.toNat| ≤ |(a.toNat : Int) + b.toNat - 2 * c.toNat| then a
      else if |(a.toNat : Int) - c.toNat| ≤ |(a.toNat : Int) + b.toNat - 2 * c.toNat| then b
      else c :=
  paeth_eq a b c rfl (by congr 1; omega) (by congr 1; omega) (by congr 1; omega)

theorem paeth_left {a b c : Byte} (hb : |(b.toNat : Int) - c.toNat| ≤ |(a.toNat : Int) - c.toNat|)
    (hc : |(b.toNat : Int) - c.toNat| ≤ |(a.toNat : Int) + b.toNat - 2 * c.toNat|) : paeth a b c = a := by
  rw [paeth_eq_dist, if_pos ⟨hb, hc⟩]

theorem paeth_up {a b c : Byte} (ha : |(a.toNat : Int) - c.toNat| < |(b.toNat : Int) - c.toNat|)
    (hc : |(a.toNat : Int) - c.toNat| ≤ |(a.toNat : Int) + b.toNat - 2 * c.toNat|) : paeth a b c = b := by
  rw [paeth_eq_dist, if_neg (by omega), if_pos hc]

/-- `b` as far from `c` as `a`, on the other side: the prediction is `c` itself. -/
theorem paeth_upLeft {a b c : Byte} (hne : a ≠ b) (htie : |(b.toNat : Int) - c.toNat| = |(a.toNat : Int) - c.toNat|)
    (hpos : 0 < |(b.toNat : Int) - c.toNat|) : paeth a b c = c := by
  have hne' : (a.toNat : Int) ≠ b.toNat := fun h => hne (BitVec.eq_of_toNat_eq (Int.ofNat_inj.mp h))
  have hmid : (a.toNat : Int) + b.toNat - 2 * c.toNat = 0 := by
    obtain h | h := abs_eq_abs.mp htie <;> omega
  rw [paeth_eq_dist, hmid, abs_zero, if_neg (by omega), if_neg (by omega)]

theorem paeth_same (a c : Byte) : paeth a a c = a := by
  have hdouble : |(a.toNat : Int) + a.toNat - 2 * c.toNat| = 2 * |(a.toNat : Int) - c.toNat| := by
    rw [← Int.two_mul, ← Int.mul_sub, abs_mul]
    rfl
  exact paeth_left le_rfl (by rw [hdouble]; linarith [abs_nonneg ((a.toNat : Int) - c.toNat)])

/-- With `c = b` the left neighbour is predicted. -/
theorem paeth_same_above (a b : Byte) : paeth a b b = a := paeth_left (by simp) (by simp)

/-- With `c = a` the neighbour above is predicted. -/
theorem paeth_same_left (a b : Byte) : paeth a b a = b := by
  by_cases hab : a = b
  · rw [hab]; exact paeth_same b b
  · have hne : (b.toNat : Int) ≠ a.toNat := fun h => hab (BitVec.eq_of_toNat_eq (Int.ofNat_inj.mp h)).symm
    refine paeth_up ?_ ?_ <;> rw [sub_self, abs_zero]
    · exact abs_pos.mpr (sub_ne_zero.mpr hne)
    · exact abs_nonneg _

/-- Settles O33: the cases of the table are the three answers of `paeth_eq_dist`. -/
theorem paethTieBreakIsFixed : Obligations.PaethTieBreakIsFixed := by
  refine ⟨fun a b c => ?_, by decide, by decide, by decide, by decide, by decide⟩
  refine ⟨paeth_same a a, paeth_same a c, paeth_same_above a 0#8, paeth_same_left 0#8 b, fun _ => paeth_same_left a b,
    paeth_same_above a b, ?tieLeft, ?tieUp, paeth_upLeft⟩
  case tieLeft => exact fun htie hlt => paeth_left hlt.le htie.le
  case tieUp => exact fun htie hlt => paeth_up hlt htie.le

/-! ### First row, first column, and the inverse of filtering (43_scanline_reconstructor sections 3, 5, 6) -/

/-- Settles O34: over zeros the two predictors fall together, sample after sample; in the first pixel `left` and `upleft` are 0. -/
theorem firstRowAndFirstColumnDegenerate : Obligations.FirstRowAndFirstColumnDegenerate := by
  rintro s n u b p hcur ⟨⟩ ⟨⟩ ⟨⟩ ⟨⟩
  refine ⟨fun hzero i hi => ⟨?upIsNone, ?paethIsSub⟩, fun i hi h3 => ⟨?subIsNone, ?paethIsUp⟩⟩
  case upIsNone =>
    rw [read_reconstructRow_curRow _ _ hcur hi, read_reconstructRow_curRow _ _ hcur hi, predUp, predNone, hzero i hi]
  case paethIsSub =>
    induction i using Nat.strong_induction_on with
    | _ i ih =>
      rw [read_reconstructRow_curRow _ _ hcur hi, read_reconstructRow_curRow _ _ hcur hi, predPaeth, predSub, hzero i hi]
      have hleft : (if 3 ≤ i then Memory.read (reconstructRow 4#8 predPaeth s).curRow (i - 3) else 0#8) =
          if 3 ≤ i then Memory.read (reconstructRow 1#8 predSub s).curRow (i - 3) else 0#8 := by
        split_ifs with h3
        · exact ih (i - 3) (by omega) (by omega)
        · rfl
      have hupLeft : (if 3 ≤ i then Memory.read s.prevRow (i - 3) else 0#8) = 0#8 := by
        split_ifs with h3
        · exact hzero (i - 3) (by omega)
        · rfl
      rw [hleft, hupLeft, paeth_same_above]
  case subIsNone =>
    rw [read_reconstructRow_curRow _ _ hcur hi, read_reconstructRow_curRow _ _ hcur hi, predSub, predNone, if_neg (by omega)]
  case paethIsUp =>
    rw [read_reconstructRow_curRow _ _ hcur hi, read_reconstructRow_curRow _ _ hcur hi, predPaeth, predUp, if_neg (by omega),
      if_neg (by omega), paeth_same_left]

/-- Settles O35: with the samples before it restored, each sample adds back the prediction the filter subtracted. -/
theorem reconstructionInvertsFiltering : Obligations.ReconstructionInvertsFiltering := by
  intro s t x ft ins hcur hft hdec hrecord hstep i hi
  obtain rfl : decodeRow ft = ins := by cases hdec; rfl
  rw [exec_decodeRow hft] at hstep
  cases hstep
  induction i using Nat.strong_induction_on with
  | _ i ih =>
    have hleft : (if 3 ≤ i then Memory.read (reconstructRow ft (predictorOf ft) s).curRow (i - 3) else 0#8) =
        if 3 ≤ i then x (i - 3) else 0#8 := by
      split_ifs with h3
      · exact ih (i - 3) (by omega) (by omega)
      · rfl
    rw [read_reconstructRow_curRow _ _ hcur hi, hrecord i hi, hleft, BitVec.sub_add_cancel]

end Sys2Proof.Machine

/-! ### Rules of the whole machine -/

namespace Sys2Proof.Machine

/-! #### The order of the phases, and what a raising step leaves (44_pipeline_driver section 1, 60_exceptions section 2) -/

/-- The instruction the `PHASE` code decodes to is the phase's micro-operation, so its step is a sequencer's step. -/
theorem seqStep_of_decodePhase {s t : State} {i : Instr} (hdec : decodePhase s.phase.code = .ok i) (h : exec i s = .next t) :
    SeqStep s t := by
  rw [decodePhase_code] at hdec
  cases hdec
  exact seqStep_of_exec h

/-- A step that enters `ERROR` is error entry; only the taken answer is written beside it (R240). -/
theorem SeqStep.eq_raise {u t : State} (h : SeqStep u t) (hu : u.phase ≠ .error) (ht : t.phase = .error) :
    ∃ e i0 i1, t = State.raise e i0 i1 { u with inflAnswer := t.inflAnswer } := by
  cases h with
  | raises e i0 i1 => exact ⟨e, i0, i1, rfl⟩
  | inflateFails => exact ⟨_, _, _, rfl⟩
  | waits | frames | copies | passes | rowDone => exact absurd ht hu
  | framesLast | parsesHeader | validates | requests | inflates | passesLength | rowsEnd | finishes => exact Phase.noConfusion ht

/-- Settles O40: the one way into `ERROR` is error entry. -/
theorem raisingStepKeepsNothingElse : Obligations.RaisingStepKeepsNothingElse := fun _ _ _ hdec hs hexec ht =>
  (seqStep_of_decodePhase hdec hexec).eq_raise hs ht

theorem SeqStep.phase_order {u t : State} (h : SeqStep u t) :
    t.phase = u.phase ∨ (u.busy = true ∧ (t.phase.code.toNat = u.phase.code.toNat + 1 ∨ t.phase = .error)) := by
  cases h with
  | waits | frames | copies | passes | rowDone => exact .inl rfl
  | raises _ _ _ hb => exact .inr ⟨hb, .inr rfl⟩
  | inflateFails hp => exact .inr ⟨busy_of_phase hp rfl, .inr rfl⟩
  | framesLast hp | parsesHeader _ hp | validates hp | requests hp | inflates hp | passesLength hp | rowsEnd hp | finishes _ hp =>
    exact .inr ⟨busy_of_phase hp rfl, .inl (by rw [hp]; rfl)⟩

/-- Settles O56: every case of a sequencer's step keeps the phase, enters the next one, or raises. -/
theorem phasesOccurInOneOrder : Obligations.PhasesOccurInOneOrder := fun _ _ _ hdec hexec =>
  (seqStep_of_decodePhase hdec hexec).phase_order

/-! #### Who writes what (10_state, 20_memory section 6) -/

/-- What is left as it was has not changed. -/
theorem not_changed {α : Type} {a : α} {q : Prop} (hne : a ≠ a) : q := absurd rfl hne

theorem SeqStep.body_eq {u t : State} (h : SeqStep u t) : t.body = u.body ∧ t.bodyLen = u.bodyLen := by
  cases h <;> exact ⟨rfl, rfl⟩

theorem CollabStep.body_eq {u t : State} (h : CollabStep u t) : t.body = u.body ∧ t.bodyLen = u.bodyLen := by
  cases h <;> exact ⟨rfl, rfl⟩

theorem AgentStep.body_cases {u t : State} {x : Turn} (h : AgentStep u x t) :
    (t.body ≠ u.body → (u.busy = false ∧ ∃ a v, x = .writeBody a v) ∨ x = .reset) ∧
    (t.bodyLen ≠ u.bodyLen → (u.busy = false ∧ ∃ v, x = .writeReg 5#5 v) ∨ x = .reset) := by
  cases h with
  | sequencer _ h => exact ⟨fun hne => absurd h.body_eq.1 hne, fun hne => absurd h.body_eq.2 hne⟩
  | collaborator _ h => exact ⟨fun hne => absurd h.body_eq.1 hne, fun hne => absurd h.body_eq.2 hne⟩
  | reset hx => exact ⟨fun _ => .inr hx, fun _ => .inr hx⟩
  | writeLen v hx hb => exact ⟨not_changed, fun _ => .inl ⟨hb, v, hx⟩⟩
  | writeBody a v hx hb => exact ⟨fun _ => .inl ⟨hb, a, v, hx⟩, not_changed⟩
  | start | clear | read | nothing => exact ⟨not_changed, not_changed⟩

/-- Settles O51: of the agents' writes only the host's two, and reset, reach `BODY` and `BODY_LEN`. -/
theorem onlyTheHostWritesTheBody : Obligations.OnlyTheHostWritesTheBody := by
  intro s t hstep
  obtain ⟨hbody, hlen⟩ := (agentStep_of_step hstep).body_cases
  refine ⟨fun hne => ?_, fun hne => ?_⟩
  · obtain ⟨hb, a, v, hx⟩ | hx := hbody hne
    · obtain ⟨rest, ha⟩ := State.agenda_of_turn hx Turn.noConfusion
      exact .inl ⟨hb, a, v, rest, ha⟩
    · exact .inr (State.agenda_of_turn hx Turn.noConfusion)
  · obtain ⟨hb, v, hx⟩ | hx := hlen hne
    · obtain ⟨rest, ha⟩ := State.agenda_of_turn hx Turn.noConfusion
      exact .inl ⟨hb, v, rest, ha⟩
    · exact .inr (State.agenda_of_turn hx Turn.noConfusion)

/-- The seven header registers (R26). -/
def State.header (s : State) : U32 × U32 × Byte × Byte × Byte × Byte × Byte :=
  (s.hdrWidth, s.hdrHeight, s.hdrBitDepth, s.hdrColorType, s.hdrCompression, s.hdrFilter, s.hdrInterlace)

theorem SeqStep.header_cases {u t : State} (h : SeqStep u t) :
    t.header = u.header ∨ (u.phase = .header ∧ t.phase = .validate ∧ t.hdrValid = true) := by
  cases h with
  | parsesHeader _ hp => exact .inr ⟨hp, rfl, rfl⟩
  | _ => exact .inl rfl

/-- Settles O52: the header is written by `HEADER`'s success, by a command, or by reset. -/
theorem headerIsNotMutatedAfterConstruction : Obligations.HeaderIsNotMutatedAfterConstruction := by
  intro s t hstep hne
  have hne : t.header ≠ s.header := by
    intro h
    simp only [State.header, Prod.mk.injEq] at h
    tauto
  cases hu : agentStep_of_step hstep with
  | sequencer _ h => exact .inl (h.header_cases.resolve_left hne)
  | collaborator _ h => exact absurd (congrArg State.header h.frame) hne
  | reset hx => exact .inr (.inr (State.agenda_of_turn hx Turn.noConfusion))
  | start v hx hv hb =>
    obtain ⟨rest, ha⟩ := State.agenda_of_turn hx Turn.noConfusion
    exact .inr (.inl ⟨hb, v, rest, ha, .inl hv⟩)
  | clear v hx hv hb =>
    obtain ⟨rest, ha⟩ := State.agenda_of_turn hx Turn.noConfusion
    exact .inr (.inl ⟨hb, v, rest, ha, .inr hv⟩)
  | writeLen | writeBody | read | nothing => exact absurd rfl hne

/-- Which memories a sequencer's step writes: each in the phase of its stage (R59). -/
theorem SeqStep.memory_cases {u t : State} (h : SeqStep u t) :
    t.infl = u.infl ∧ (t.chunkTable ≠ u.chunkTable → u.phase = .frame) ∧ (t.comp ≠ u.comp → u.phase = .concat) ∧
    (t.curRow ≠ u.curRow → u.phase = .rows) ∧ (t.grid ≠ u.grid → u.phase = .rows) ∧
    (t.prevRow ≠ u.prevRow → u.phase = .lencheck ∨ u.phase = .rows) := by
  cases h with
  | frames _ _ hp => exact ⟨rfl, fun _ => hp, not_changed, not_changed, not_changed, not_changed⟩
  | copies _ hp => exact ⟨rfl, not_changed, fun _ => hp, not_changed, not_changed, not_changed⟩
  | passesLength hp => exact ⟨rfl, not_changed, not_changed, not_changed, not_changed, fun _ => .inl hp⟩
  | rowDone hp => exact ⟨rfl, not_changed, not_changed, fun _ => hp, fun _ => hp, fun _ => .inr hp⟩
  | _ => exact ⟨rfl, not_changed, not_changed, not_changed, not_changed, not_changed⟩

theorem State.turn_eq_iff {s : State} {x : Turn} (hx : x ≠ .sequencer) : s.turn = x ↔ s.agenda.head? = some x := by
  cases ha : s.agenda with
  | nil => simpa [State.turn, ha] using hx.symm
  | cons y rest => simp [State.turn, ha]

/-- Settles O53: the sequencer writes each memory in its own phase, the collaborator `INFL` alone, the host none of them but by
emptying the table. -/
theorem eachMemoryIsWrittenByItsStageAlone : Obligations.EachMemoryIsWrittenByItsStageAlone := by
  intro s t hstep hreset
  cases hu : agentStep_of_step hstep with
  | sequencer _ h =>
    obtain ⟨hinfl, htable, hcomp, hcur, hgrid, hprev⟩ := h.memory_cases
    exact ⟨fun hne => .inl (htable hne), hcomp, fun hne => absurd hinfl hne, hcur, hgrid, hprev⟩
  | collaborator hx h =>
    have hhead : s.agenda.head? = some .collaborator := (State.turn_eq_iff Turn.noConfusion).mp hx
    cases h with
    | deliversOk _ hr => exact ⟨not_changed, not_changed, fun _ => ⟨hhead, hr⟩, not_changed, not_changed, not_changed⟩
    | nothing | deliversFail => exact ⟨not_changed, not_changed, not_changed, not_changed, not_changed, not_changed⟩
  | reset hx => exact absurd ((State.turn_eq_iff Turn.noConfusion).mp hx) hreset
  | start _ _ _ hb | clear _ _ _ hb => exact ⟨fun _ => .inr ⟨hb, rfl⟩, not_changed, not_changed, not_changed, not_changed, not_changed⟩
  | writeLen | writeBody | read | nothing => exact ⟨not_changed, not_changed, not_changed, not_changed, not_changed, not_changed⟩

/-! #### `POS` (10_state section 3, 41_chunk_reader section 1) -/

theorem SeqStep.pos_le {u t : State} (h : SeqStep u t) : u.pos ≤ t.pos := by
  cases h with
  | frames typ len => simp only [State.framed]; omega
  | _ => exact le_rfl

/-- A step that stays in `FRAME` has framed one record, at least 12 bytes long and within `BODY` (R125). -/
theorem SeqStep.pos_of_frame {u t : State} (h : SeqStep u t) (hu : u.phase = .frame) (ht : t.phase = .frame) :
    u.pos + 12 ≤ t.pos ∧ t.pos ≤ t.bodyLen := by
  cases h with
  | frames typ len _ _ _ _ _ hfit => simp only [State.framed]; omega
  | waits hp => simp [hu] at hp
  | raises | framesLast | parsesHeader | validates | requests | inflates | inflateFails | passesLength | rowsEnd | finishes =>
    exact Phase.noConfusion ht
  | copies _ hp | passes _ hp | rowDone hp => exact Phase.noConfusion (hu.symm.trans hp)

/-- The sequencer's turn, or no turn waiting, is the micro-operation of the phase. -/
theorem step_of_sequencer {s : State} (h : s.agenda = [] ∨ ∃ rest, s.agenda = .sequencer :: rest) :
    step s = exec (seqInstrOf s.taken.phase) s.taken := by
  obtain ha | ⟨rest, ha⟩ := h
  · rw [State.taken_of_nil ha, step_nil ha]
  · rw [State.taken_of_cons ha, step_sequencer ha]
    rfl

/-- Settles O54: only framing moves `POS` while busy; a command is lost then, and reset ends the decode. -/
theorem posNeverDecreasesDuringADecode : Obligations.PosNeverDecreasesDuringADecode := by
  intro s t hctl hb hstep htb
  have hle : s.pos ≤ t.pos := by
    cases hu : agentStep_of_step hstep with
    | sequencer _ h => exact h.pos_le
    | collaborator _ h => rw [h.frame]; exact le_rfl
    | reset | clear => exact absurd htb Bool.false_ne_true
    | start _ _ _ hnot => exact absurd (hb.symm.trans hnot) Bool.noConfusion
    | writeLen | writeBody | read | nothing => exact le_rfl
  refine ⟨hle, fun hagenda hp htp => ?_⟩
  rw [step_of_sequencer hagenda] at hstep
  exact (seqStep_of_exec hstep).pos_of_frame hp htp

/-! #### Progress (44_pipeline_driver section 6) -/

/-- `lessWork` is the lexicographic order of two naturals. -/
theorem lessWork_wellFounded : WellFounded lessWork := by
  refine Subrelation.wf (fun {a b} h => ?_) (WellFoundedRelation.wf : WellFounded (Prod.Lex (· < ·) (· < · : Nat → Nat → Prop)))
  exact Prod.lex_def.mpr h

theorem State.lastEntry_of_firstEntry {s : State} {e : ChunkEntry} (h : s.firstEntry = some e) : ∃ last, s.lastEntry = some last := by
  have hne : s.chunkTable ≠ [] := fun hnil => by simp [State.firstEntry, hnil] at h
  exact ⟨_, List.getLast?_eq_some_getLast hne⟩

/-- While busy an entry is there for every rule that reads one (R205, R210: log entry 11). -/
theorem exec_seq_completes {u : State} (hctl : u.ControlInv) : ∃ t, exec (seqInstrOf u.phase) u = .next t := by
  cases hp : u.phase with
  | idle | done | error => exact ⟨_, rfl⟩
  | frame =>
    rw [show exec (seqInstrOf .frame) u = _ from execSeqFrame_eq u]
    split_ifs <;> exact ⟨_, rfl⟩
  | header =>
    rw [show exec (seqInstrOf .header) u = _ from execSeqHeader_eq u]
    cases u.firstEntry with
    | none => exact ⟨_, rfl⟩
    | some e => simp only; split_ifs <;> exact ⟨_, rfl⟩
  | validate =>
    rw [show exec (seqInstrOf .validate) u = _ from exec_seqValidate_eq u]
    split_ifs <;> exact ⟨_, rfl⟩
  | concat =>
    by_cases hci : u.ci = u.nChunks
    · exact ⟨_, exec_seqConcat_of_end hci⟩
    · have hlt : u.ci < u.chunkTable.length := lt_of_le_of_ne (hctl.concat hp).1 hci
      have he : u.ciEntry = some u.chunkTable[u.ci] := List.getElem?_eq_getElem hlt
      rw [show exec (seqInstrOf .concat) u = _ from exec_seqConcat_of_entry hci he]
      split_ifs <;> exact ⟨_, rfl⟩
  | inflate =>
    rw [show exec (seqInstrOf .inflate) u = execSeqInflate u from rfl, execSeqInflate]
    split <;> exact ⟨_, rfl⟩
  | lencheck =>
    rw [show exec (seqInstrOf .lencheck) u = execSeqLencheck u from rfl, execSeqLencheck]
    split_ifs <;> exact ⟨_, rfl⟩
  | rows =>
    rw [show exec (seqInstrOf .rows) u = execSeqRows u from rfl, execSeqRows]
    split_ifs <;> exact ⟨_, rfl⟩
  | endcheck =>
    obtain ⟨hlo, hhi⟩ := State.phaseNo_mem hp (lo := 3) (hi := 9) (by decide)
    obtain ⟨e, he, -⟩ := hctl.firstChunk hlo hhi
    obtain ⟨last, hlast⟩ := State.lastEntry_of_firstEntry he
    rw [show exec (seqInstrOf .endcheck) u = _ from exec_seqEndcheck_of_last hlast, endMarker]
    split_ifs <;> exact ⟨_, rfl⟩

theorem State.workLeft_pos {s : State} (hb : s.busy = true) : 0 < s.workLeft.1 := by
  cases hp : s.phase with
  | idle => exact absurd hb (by simp [State.not_busy_of_phase (.inl hp)])
  | done => exact absurd hb (by simp [State.not_busy_of_phase (.inr (.inl hp))])
  | error => exact absurd hb (by simp [State.not_busy_of_phase (.inr (.inr hp))])
  | _ => simp [State.workLeft, hp]

/-- Every step that does not wait enters a later phase or leaves less to do in its own (R212). -/
theorem SeqStep.lessWork {u t : State} (hctl : u.ControlInv) (hb : u.busy = true) (hwait : u.phase = .inflate → u.inflAnswer ≠ none)
    (h : SeqStep u t) : lessWork t.workLeft u.workLeft := by
  cases h with
  | waits hp =>
    obtain hp | hp | hp | ⟨hp, hans⟩ := hp
    · exact absurd hb (by simp [State.not_busy_of_phase (.inl hp)])
    · exact absurd hb (by simp [State.not_busy_of_phase (.inr (.inl hp))])
    · exact absurd hb (by simp [State.not_busy_of_phase (.inr (.inr hp))])
    · exact absurd hans (hwait hp)
  | raises | inflateFails => exact .inl (State.workLeft_pos hb)
  | frames typ len hp _ _ _ _ hfit =>
    have hless : u.bodyLen - (u.pos + 8 + len.toNat + 4) < u.bodyLen - u.pos := by omega
    exact .inr (by simpa [State.workLeft, State.framed, hp] using hless)
  | copies e hp _ he | passes e hp _ he =>
    have hlt : u.ci < u.nChunks := State.ci_lt_of_ciEntry he
    have hless : u.nChunks - (u.ci + 1) < u.nChunks - u.ci := by omega
    exact .inr (by simpa [State.workLeft, State.nChunks, hp] using hless)
  | rowDone hp hr =>
    have hlt : u.row.toNat < u.hdrHeight.toNat := lt_of_le_of_ne (hctl.rows hp) hr
    have hless : u.hdrHeight.toNat - (u.row + 1#33).toNat < u.hdrHeight.toNat - u.row.toNat := by rw [toNat_row_succ hlt]; omega
    exact .inr (by simpa [State.workLeft, hp] using hless)
  | framesLast hp | parsesHeader _ hp | validates hp | requests hp | inflates hp | passesLength hp | rowsEnd hp | finishes _ hp =>
    exact .inl (by simp [State.workLeft, hp])

/-- Settles O55: a busy sequencer step completes, and each case of it lowers the measure. -/
theorem everyBusyStepCompletesAndMakesProgress : Obligations.EveryBusyStepCompletesAndMakesProgress := by
  refine ⟨lessWork_wellFounded, fun s hctl hb hagenda hwait => ?_⟩
  have hstep : step s = exec (seqInstrOf s.taken.phase) s.taken := step_of_sequencer hagenda
  obtain ⟨t, ht⟩ := exec_seq_completes (controlInv_afterTurn hctl s.agenda.tail)
  exact ⟨t, hstep.trans ht, (seqStep_of_exec ht).lessWork (u := s.taken) (controlInv_afterTurn hctl _) hb hwait⟩

/-! #### Valid ranges (20_memory section 3, 41_chunk_reader section 3) -/

theorem Tiles.le {entries : List ChunkEntry} {start stop : Nat} (h : Tiles entries start stop) : start ≤ stop := by
  induction entries generalizing start with
  | nil => exact Nat.le_of_eq h
  | cons e rest ih => have := ih h.2; omega

/-- A record of the tiling, its checksum included, ends within the tiled bytes (R126). -/
theorem Tiles.record_le {entries : List ChunkEntry} {start stop : Nat} (h : Tiles entries start stop) {e : ChunkEntry}
    (he : e ∈ entries) : e.payOff + e.payLen.toNat + 4 ≤ stop := by
  induction entries generalizing start with
  | nil => cases he
  | cons d rest ih =>
    obtain ⟨hoff, hrest⟩ := h
    cases he with
    | head => have := hrest.le; omega
    | tail _ he => exact ih hrest he

/-- The records' lengths add up to the tiled bytes (R131). -/
theorem Tiles.sum_eq {entries : List ChunkEntry} {start stop : Nat} (h : Tiles entries start stop) :
    start + (entries.map fun e => 12 + e.payLen.toNat).sum = stop := by
  induction entries generalizing start with
  | nil => exact h
  | cons e rest ih => rw [List.map_cons, List.sum_cons, ← ih h.2]; omega

/-- Settles O50: the row's record by the length check, the chunk records by the tiling. -/
theorem recordsStayWithinValidRanges : Obligations.RecordsStayWithinValidRanges := by
  refine fun s hctl => ⟨fun hp hr => ?row, fun hb e he => ?record, fun hlo hhi => ?all⟩
  case row => exact hctl.record_le hp (lt_of_le_of_ne (hctl.rows hp) hr)
  case record =>
    obtain ⟨htiles, hpos⟩ := hctl.framed hb
    exact (htiles.record_le he).trans hpos
  case all =>
    obtain ⟨htiles, -⟩ := hctl.framed (s.busy_iff_code.mpr ⟨Nat.le_of_succ_le hlo, hhi⟩)
    refine ⟨?_, fun e rest htable => ?_⟩
    · rw [← hctl.framedAll hlo hhi, ← htiles.sum_eq, Nat.zero_add]
    · rw [htable] at htiles
      exact htiles.1

/-! #### The finished image (43_scanline_reconstructor) -/

/-- Settles O49: in `DONE` every row is below `ROW`, and `ROW_BYTES` is `3 * HDR_WIDTH`. -/
theorem doneImageIsReconstructed : Obligations.DoneImageIsReconstructed := by
  intro s hctl hgrid hp r i hr hi g hg ft hft
  obtain ⟨hlo, hhi⟩ := State.phaseNo_mem hp (lo := 8) (hi := 9) (by decide)
  have hrb : s.rowBytes.toNat = 3 * s.hdrWidth.toNat := (hctl.lengths (Nat.le_of_succ_le hlo) hhi).1
  have hsample (r' i' : Nat) : s.sample r' i' = g r' i' := by rw [State.sample, hrb, hg]
  have hfilter : s.filterOf r = ft := by rw [State.filterOf, hrb, hft]
  obtain ⟨hlegal, hrow⟩ := (hgrid (Nat.le_of_succ_le hlo) hhi).1 r ((hctl.rowsAll hlo hhi).symm ▸ hr)
  have heq := hrow i (hrb ▸ hi)
  simp only [State.sampleLeft, State.sampleUp, State.sampleUpLeft, State.stored, hsample, hfilter, hrb] at heq hlegal
  exact ⟨hlegal, heq⟩

end Sys2Proof.Machine

/-! ### Commands and the fetch of a step (44_pipeline_driver section 2, 30_encoding) -/

namespace Sys2Proof.Machine

/-- Settles O2: the sequencer's micro-operation of `IDLE` is no step, and `START` runs from the reset state. -/
theorem afterResetTheBlockWaitsForStart : Obligations.AfterResetTheBlockWaitsForStart := by
  refine ⟨rfl, step_nil rfl, fun rest => ⟨{ (State.reset.afterTurn rest).clearDecode with phase := .frame }, ?_, rfl, rfl⟩⟩
  rw [step_command rfl]
  rfl

/-- Settles O6: the two branches of `CMD.START`. -/
theorem startBeginsANewDecode : Obligations.StartBeginsANewDecode := fun _ =>
  ⟨fun hb => if_neg (ne_true_of_eq_false hb), fun hb => if_pos hb, rfl⟩

/-- Settles O7: the two branches of `CMD.CLEAR`. -/
theorem clearReturnsToIdle : Obligations.ClearReturnsToIdle := fun _ =>
  ⟨fun hb => if_neg (ne_true_of_eq_false hb), fun hb => if_pos hb⟩

/-- Settles O8: of the cases of a command, those that do something need code 1 or 2 and a block that is not busy. -/
theorem nopReservedAndBusyCommandsDoNothing : Obligations.NopReservedAndBusyCommandsDoNothing := by
  refine fun s => ⟨rfl, rfl, fun hb => ⟨if_pos hb, if_pos hb⟩, fun v rest ha hv => ?_⟩
  rw [step_command ha]
  obtain h | ⟨hb, hc, -⟩ | ⟨hb, hc, -⟩ := exec_command_cases (BitVec.ofNat 2 v) (s.afterTurn rest)
  · exact h
  · have hv1 : v % 4 = 1 := mod_four_of_ofNat hc
    have hidle : s.busy = false := hb
    simp [hv1, hidle] at hv
  · have hv2 : v % 4 = 2 := mod_four_of_ofNat hc
    have hidle : s.busy = false := hb
    simp [hv2, hidle] at hv

/-- A phase's code read as a byte decodes to its micro-operation (R22, R93). -/
theorem decode_phase_code (p : Phase) : decode .phase [p.code.setWidth 8] = .ok (seqInstrOf p, []) := by cases p <;> rfl

/-- The command of a written value is that of its low two bits (R94). -/
theorem decode_cmd_ofNat (v : Nat) : decode .cmd [BitVec.ofNat 8 v] = .ok (decodeCmd (BitVec.ofNat 2 v), []) := by
  have hlow : (BitVec.ofNat 8 v).extractLsb' 0 2 = BitVec.ofNat 2 v := by
    apply BitVec.eq_of_toNat_eq
    simp only [BitVec.extractLsb'_toNat, BitVec.toNat_ofNat, Nat.shiftRight_zero]
    omega
  rw [decode, hlow]

/-- Settles O10: the turn's instruction is the decoder's reading of the `PHASE` code, or of the written value. -/
theorem stepRunsTheFetchedInstruction : Obligations.StepRunsTheFetchedInstruction := by
  refine fun s i rest => ⟨fun hdec => ?phase, fun v ha hdec => ?cmd⟩
  case phase =>
    rw [decode_phase_code] at hdec
    cases hdec
    exact ⟨fun ha => step_nil ha, fun ha => step_sequencer ha⟩
  case cmd =>
    rw [decode_cmd_ofNat] at hdec
    cases hdec
    exact step_command ha

/-! ### Chunk instructions and the phases that run them (41_chunk_reader) -/

/-- A decoded chunk instruction is told apart by its type where its phase judges the type, and nowhere else (R127 to R130). -/
theorem exec_decodeChunk (len typ : U32) (s : State) :
    exec (decodeChunk len typ) s =
      chunkInPhase typ len
        (fun off => if typ = Config.typeIhdr then parseHeader len off else firstNotIhdr typ)
        (fun off => if typ = Config.typeIdat then copyChunk len off else passChunk)
        (if typ = Config.typeIend then endMarker len else lastNotIend typ) s := by
  by_cases hother : Instr.isOtherType typ = true
  · obtain ⟨hihdr, hidat, hiend⟩ := (isOtherType_iff typ).mp hother
    rw [decodeChunk_other hother, exec_chunkOther]
    simp only [hihdr, hidat, hiend, if_false]
  · obtain rfl | rfl | rfl : typ = Config.typeIhdr ∨ typ = Config.typeIdat ∨ typ = Config.typeIend := by
      rw [isOtherType_iff] at hother
      tauto
    all_goals rfl

/-- A chunk's fields are the first eight of at least eight bytes (R81). -/
theorem decode_chunk_readBytes (m : Memory) (a n : Nat) :
    decode .chunk (Memory.readBytes m a (n + 8)) =
      .ok (decodeChunk (Memory.read4 m a) (Memory.read4 m (a + 4)), Memory.readBytes m (a + 8) n) := rfl

theorem length_of_decode_chunk {bs rest : List Byte} {i : Instr} (h : decode .chunk bs = .ok (i, rest)) : 8 ≤ bs.length := by
  unfold decode at h
  split at h
  case h_1 => simp
  case h_2 => cases h
  all_goals contradiction

/-- Settles O11: with eight bytes left the cursor reads the fields the instruction carries, and the record fits or does not. -/
theorem frameStepRunsTheChunkAtPos : Obligations.FrameStepRunsTheChunkAtPos := by
  intro s i after hp hpos hdec
  have hlen := length_of_decode_chunk hdec
  rw [Memory.length_readBytes] at hlen
  obtain ⟨n, hn⟩ := Nat.exists_eq_add_of_le' hlen
  rw [hn, decode_chunk_readBytes] at hdec
  cases hdec
  rw [exec_decodeChunk, chunkInPhase_frame hp, frameChunk_eq, show exec .seqFrame s = _ from execSeqFrame_eq s, if_neg hpos,
    if_neg (by omega)]

/-- Settles O12: by whether the filter byte is one of the five types. -/
theorem rowsStepRunsTheRowOfItsFilterByte : Obligations.RowsStepRunsTheRowOfItsFilterByte := by
  rintro s i hrow ⟨⟩
  by_cases hft : 4 < s.filterByte.toNat
  · have hill : decodeRow s.filterByte = .rowIllegal s.filterByte := decodeRow_illegal (decide_eq_true hft)
    exact ⟨_, (if_neg hrow).trans (if_pos hft), congrArg (exec · s) hill⟩
  · exact ⟨_, (if_neg hrow).trans (if_neg hft), exec_decodeRow (Nat.not_lt.mp hft) s⟩

/-- Settles O13: each of the three phases runs on its entry the operation that the entry's type selects. -/
theorem headerConcatEndcheckRunTheirChunk : Obligations.HeaderConcatEndcheckRunTheirChunk := by
  refine fun s e => ⟨fun hp he => ?header, fun hp hci he => ?concat, fun hp he => ?endcheck⟩
  case header =>
    rw [exec_decodeChunk, chunkInPhase_header hp he, show exec .seqHeader s = execSeqHeader s from rfl, execSeqHeader,
      State.firstEntry, he]
    by_cases ht : e.typeCode = Config.typeIhdr <;> simp [ht]
  case concat =>
    rw [exec_decodeChunk, chunkInPhase_concat hp he, exec_seqConcat_of_entry hci he]
    split_ifs <;> rfl
  case endcheck =>
    rw [exec_decodeChunk, chunkInPhase_endcheck hp he, exec_seqEndcheck_of_last he]
    by_cases ht : e.typeCode = Config.typeIend <;> simp [ht]

/-- Settles O14: `be32` puts the first byte highest. -/
theorem fourByteReadsAreBigEndian : Obligations.FourByteReadsAreBigEndian := Memory.read4_toNat

/-- Settles O17: the load at each place, or its failure. -/
theorem readU32InstructionCompletes : Obligations.ReadU32InstructionCompletes := by
  refine fun m n pos s _ => ⟨fun h => ?_, fun h dst => ?_⟩
  · have hload (dst : U32Dst) :
        exec (.readU32 dst m n pos) s = .next (s.keepU32 dst (Memory.read4 (s.mem m) pos) (pos + 4)) := congrArg s.settle (loadU32_ok h)
    exact ⟨hload .frameLength, hload .frameType, hload .hdrWidth, hload .hdrHeight⟩
  · exact congrArg s.settle (loadU32_error h)

/-- Settles O18: the load at each place, or its failure. -/
theorem readU8InstructionCompletes : Obligations.ReadU8InstructionCompletes := by
  refine fun m n pos s _ => ⟨fun h => ?_, fun h dst => ?_⟩
  · have hload (dst : U8Dst) :
        exec (.readU8 dst m n pos) s = .next (s.keepU8 dst (Memory.read (s.mem m) pos) (pos + 1)) := congrArg s.settle (loadU8_ok h)
    exact ⟨hload .hdrBitDepth, hload .hdrColorType, hload .hdrCompression, hload .hdrFilter, hload .hdrInterlace⟩
  · exact congrArg s.settle (loadU8_error h)

/-- Settles O20: in `FRAME` all four instructions frame the record of their type. -/
theorem chunkInstructionsFrameEveryTypeAlike : Obligations.ChunkInstructionsFrameEveryTypeAlike := by
  intro s len typ i hp hi
  have hframe : exec i s = frameChunk typ len s := by
    obtain ⟨rfl, rfl⟩ | ⟨rfl, rfl⟩ | ⟨rfl, rfl⟩ | rfl := hi
    · rw [exec_chunkIhdr, chunkInPhase_frame hp]; rfl
    · rw [exec_chunkIdat, chunkInPhase_frame hp]; rfl
    · rw [exec_chunkIend, chunkInPhase_frame hp]; rfl
    · rw [exec_chunkOther, chunkInPhase_frame hp]
  rw [hframe, frameChunk_eq, State.framed_eq]
  exact ⟨fun hfits => if_neg (Nat.not_lt.mpr hfits), fun hlong => if_pos hlong⟩

/-- Settles O21: the operation each phase hands to `chunkInPhase`. -/
theorem chunkInstructionsByPosition : Obligations.ChunkInstructionsByPosition := by
  refine fun s len typ => ⟨fun hp hne => ?first, fun hp hlt => ?examined, fun hp hne => ?last⟩
  case first =>
    have he : s.firstEntry = some (s.chunkTable.head hne) := List.head?_eq_some_head hne
    rw [exec_chunkIdat, exec_chunkIend, exec_chunkOther]
    simp only [chunkInPhase_header hp he]
    exact ⟨rfl, rfl, rfl⟩
  case examined =>
    have he : s.ciEntry = some s.chunkTable[s.ci] := List.getElem?_eq_getElem hlt
    rw [exec_chunkIhdr, exec_chunkIend, exec_chunkOther]
    simp only [chunkInPhase_concat hp he]
    exact ⟨rfl, rfl, rfl⟩
  case last =>
    have he : s.lastEntry = some (s.chunkTable.getLast hne) := List.getLast?_eq_some_getLast hne
    rw [exec_chunkIhdr, exec_chunkIdat, exec_chunkOther]
    simp only [chunkInPhase_endcheck hp he]
    exact ⟨rfl, rfl, rfl⟩

/-! ### Errors, results, reset (60_exceptions, 44_pipeline_driver) -/

/-- Settles O26: the three states of the port. -/
theorem inflateWaitsThenTakesTheAnswer : Obligations.InflateWaitsThenTakesTheAnswer := by
  intro s
  rw [show exec .seqInflate s = execSeqInflate s from rfl, execSeqInflate]
  refine ⟨fun h => ?waits, fun h => ?takesOk, fun h => ?takesFail⟩
  case waits => rw [h]
  case takesOk => rw [h]
  case takesFail => rw [h]; rfl

/-- Settles O39: the definitions of error entry and of the codes. -/
theorem errorEntryWritesSixRegistersAndNothingElse : Obligations.ErrorEntryWritesSixRegistersAndNothingElse :=
  ⟨fun _ _ _ _ => rfl, rfl, rfl, rfl, rfl, rfl, rfl, rfl, rfl⟩

theorem State.result_of_error {s : State} (hp : s.phase = .error) : s.result = some (.failed s.errCode s.errInfo0 s.errInfo1) := by
  simp [State.result, State.isDone, State.isErr, hp]

theorem State.gridRows_of_done {s : State} (hp : s.phase = .done) : s.gridRows = s.hdrHeight := by
  simp [State.gridRows, State.isDone, hp]

theorem State.result_of_done {s : State} (hp : s.phase = .done) :
    s.result = some (.image s.hdrWidth s.hdrHeight s.hdrBitDepth s.hdrColorType s.hdrCompression s.hdrFilter s.hdrInterlace
      s.hdrHeight (Memory.readBytes s.grid 0 (3 * s.hdrWidth.toNat * s.hdrHeight.toNat))) := by
  simp [State.result, State.isDone, hp, State.gridRows_of_done hp, Config.channels]

theorem State.result_eq_none {s : State} (hdone : s.phase ≠ .done) (herr : s.phase ≠ .error) : s.result = none := by
  simp [State.result, State.isDone, State.isErr, hdone, herr]

/-- Settles O42: by the phase. -/
theorem resultOnlyAtTheEndOfARun : Obligations.ResultOnlyAtTheEndOfARun := by
  refine fun s => ⟨⟨fun hres => ?_, ?_⟩, State.result_of_error, fun hp => ⟨State.gridRows_of_done hp, State.result_of_done hp⟩,
    State.gridRows_of_not_done⟩
  · by_contra hp
    rw [not_or] at hp
    exact hres (State.result_eq_none hp.1 hp.2)
  · rintro (hp | hp)
    · rw [State.result_of_done hp]; exact Option.some_ne_none _
    · rw [State.result_of_error hp]; exact Option.some_ne_none _

/-- Settles O43: `IDLE` promises no more than cleared registers. -/
theorem resetMeetsTheInvariants : Obligations.ResetMeetsTheInvariants :=
  ⟨rfl, State.controlInv_of_cleared (.inl rfl) ⟨rfl, rfl, rfl⟩ ⟨rfl, rfl⟩ rfl rfl rfl, fun hb => absurd hb Bool.false_ne_true,
    State.compInv_of_outside (.inl (by decide)), State.gridInv_of_outside (.inl (by decide))⟩

end Sys2Proof.Machine
